-- ==== Sys2Proof/Word.lean ====
section
/-! DEFINITION. The bit-field words of the block (00_scope.md R8, R10): every value is an unsigned, right-aligned
bit vector, and every register is a 64-bit container. -/

namespace Sys2Proof

/-- The 64-bit container: a register, a data block, a key (R8). -/
abbrev Word := BitVec 64

/-- Half of a data block (R8). -/
abbrev Half := BitVec 32

/-- A round key, or a half expanded by E (R8). -/
abbrev RoundKey := BitVec 48

/-- The key-schedule state `C ++ D` (R8, R120). -/
abbrev KeyState := BitVec 56

/-- One sub-half, C or D, of the key-schedule state (R8, R120). -/
abbrev SubHalf := BitVec 28

/-- The OPC field of a command word (R71). -/
abbrev Opc := BitVec 6

end Sys2Proof
end

