-- ==== Sys2Proof/Machine/Bits.lean ====
section
/-! DEFINITION. The bit-field operators of 00_scope.md: DES positions (R11), table selection (R12), rotation of a 28-bit
sub-half (R13), and the width test of `chk_W` (R14). -/

namespace Sys2Proof.Machine

/-- DES bit `i` of a `W`-bit value, counted from the left starting at 1: `v[W - i]` (R11). Position 0 names no bit and
reads as 0; the tables below use it for "no bit selected". -/
def dbit {W : Nat} (v : BitVec W) (i : Nat) : Bool := v.getLsbD (W - i)

/-- The `n`-bit value whose DES bits 1, 2, .. `n` are the `n` entries of `bits` in turn. -/
def ofDesBits (n : Nat) (bits : List Bool) : BitVec n :=
  BitVec.ofNat n (bits.foldl (fun acc bit => 2 * acc + bit.toNat) 0)

/-- `select(T, W, v)` (R12): the `n`-bit value whose DES bit j is DES bit `T[j]` of `v`, for a table of `n` entries. -/
def select {W : Nat} (n : Nat) (T : List Nat) (v : BitVec W) : BitVec n :=
  ofDesBits n (T.map (dbit v))

/-- The position (from 1) of the first entry of `T` that is `j`; past the end of `T` where there is none. -/
def positionIn (T : List Nat) (j : Nat) : Nat := T.idxOf j + 1

/-- `rotl_28` (R13). -/
def rotl28 (x : SubHalf) (n : Nat) : SubHalf := (x <<< n) ||| (x >>> (28 - n))

/-- `rotr_28` (R13). -/
def rotr28 (x : SubHalf) (n : Nat) : SubHalf := (x >>> n) ||| (x <<< (28 - n))

/-- `chk_W` passes: no bit of the operand is set at or above `W` (R14, R100). -/
def fits (W : Nat) (v : Word) : Bool := v >>> W == 0

/-- `zext_64` (R13). -/
def zext {W : Nat} (v : BitVec W) : Word := v.setWidth 64

end Sys2Proof.Machine
end

