-- ==== Sys2Proof/Config.lean ====
section
/-! DEFINITION. What an instance of the block fixes (R9) and the one source of free values: the draws the spec calls
"any 64-bit value" (R39, R54, R59). -/

namespace Sys2Proof

/-- A DRAW: the n-th value the spec leaves open ("any 64-bit value (a draw)", R39, R54, R59). It has no body, so
nothing in Lean can evaluate it, and a claim about it holds for every value (assumption log 3). -/
opaque Config.draw : Nat → Word

/-- One known-answer triple of the self-check set (R196). -/
structure KnownAnswer where
  key    : Word
  plain  : Word
  cipher : Word
deriving DecidableEq, Repr

/-- The parameters of R9 on which a rule depends. No step writes them. `LAT(op)` is the place of the engine's turn
among the events (assumption log 5), and `HOST_BYTE_ORDER` never reaches the block (R56). -/
structure Params where
  /-- `DES_BASE`, the platform address of the window (R50). OPEN in the spec. -/
  desBase      : Nat
  /-- `SELFCHECK_SET`, the triples CHECK runs (R196). -/
  selfcheckSet : List KnownAnswer
deriving DecidableEq, Repr

end Sys2Proof
end

