-- ==== Sys2Proof/Machine/SelfCheckSet.lean ====
section
/-! DEFINITION. The default parameters of R9. -/

namespace Sys2Proof.Machine

/-- The default `SELFCHECK_SET`: the five triples of R196. -/
def defaultSelfCheckSet : List KnownAnswer :=
  [ ⟨0x133457799BBCDFF1#64, 0x0123456789ABCDEF#64, 0x85E813540F0AB405#64⟩,
    ⟨0x0E329232EA6D0D73#64, 0x8787878787878787#64, 0x0000000000000000#64⟩,
    ⟨0x0123456789ABCDEF#64, 0x4E6F772069732074#64, 0x3FA40E8A984D4815#64⟩,
    ⟨0x0000000000000000#64, 0x0000000000000000#64, 0x8CA64DE9C1B123A7#64⟩,
    ⟨0xFFFFFFFFFFFFFFFF#64, 0xFFFFFFFFFFFFFFFF#64, 0x7359B2163E4EDC58#64⟩ ]

/-- The parameters after power-on. `SELFCHECK_SET` is the spec's default (R9). DESIGN CHOICE (unsafe, assumption
log 6): the spec leaves `DES_BASE` OPEN, and here it is 0; every other 256-aligned base is another State. -/
def defaultParams : Params := { desBase := 0, selfcheckSet := defaultSelfCheckSet }

end Sys2Proof.Machine
end

