-- ==== Sys2Proof/Machine/State.lean ====
section
/-! DEFINITION. The state of the block (10_state.md R20), as plain data, and the machine right after reset (R38). -/

namespace Sys2Proof.Machine

/-- The error codes of R211. Codes 9..15 are never produced, and no constructor stands for them. -/
inductive ErrCode where
  /-- 0: no error -/
  | none
  /-- 1: host write to CMD, A or B while BUSY = 1 -/
  | busyViolation
  /-- 2: the command word is illegal -/
  | illegalCmd
  /-- 3: IDX outside 1..8 -/
  | sboxIndex
  /-- 4: IDX outside 1..16 -/
  | roundIndex
  /-- 5: KSV = 0 -/
  | noSchedule
  /-- 6: an operand has a set bit at or above its width -/
  | width
  /-- 7: a duplicated pair of E disagrees -/
  | eMismatch
  /-- 8: a self-check triple fails -/
  | selfcheckFail
deriving DecidableEq, Repr

/-- The pending record (R35): the command word and the values of A and B at issue. -/
structure Pending where
  word : Word
  a    : Word
  b    : Word
deriving DecidableEq, Repr

/-- The stage values `e`, `x`, `s` and `f` of one evaluation of the round function (R182). -/
structure Stages where
  e : RoundKey
  x : RoundKey
  s : Half
  f : Half
deriving DecidableEq, Repr

/-- The round datapath (R33), hidden from the host and read by no rule: the round counter (R21), the halves
`(L_i, R_i)`, the sub-halves `(C_i, D_i)`, each in the order the command passes through them, and the stages of each
evaluation of the round function. -/
structure Datapath where
  round     : Nat
  halves    : List (Half × Half)
  subHalves : List (SubHalf × SubHalf)
  stages    : List Stages
deriving DecidableEq, Repr

/-- One event of an execution (R60): a host access to the platform's address space (address, size in bytes), the
engine's turn (Complete may fire, R34), or a change of the reset input (R240). -/
inductive Event where
  | write (addr size : Nat) (value : Word)
  | read (addr size : Nat)
  | engine
  | assertReset
  | releaseReset
deriving DecidableEq, Repr

/-- Why a step can stop with a fault. -/
inductive Fault where
  /-- Raised by a host access that starts outside the 256-byte window (R50; assumption logs 11 and 17): there is no such address in the block's only
  address space. Safe: nothing is claimed of what another device does there. -/
  | outsideWindow (addr : Nat)
deriving DecidableEq, Repr

/-- Why a step can be refused. -/
inductive Refusal where
  /-- An instruction without a meaning yet; raised by an arm of exec. Safe. -/
  | notModelled (mnemonic : String)
  /-- REFUSED_ACCESS (R53, R221): a bus access inside the window that is not 64 bits wide or not 8-aligned; raised
  by the bus. Safe: R53 says that a model refuses it. -/
  | refusedAccess (addr size : Nat)
  /-- The pending record holds an illegal word; raised by the engine's turn. Safe, and no run reaches it: only a
  legal word is ever made pending (R34; assumption log 12). -/
  | illegalPending (word : Word)
deriving DecidableEq, Repr

/-- The block, its parameters, and the events still to come. -/
structure State where
  /-- the parameters of R9; no step writes them -/
  params : Params
  /-- CMD, the last command word decoded (R25) -/
  cmd : Word
  /-- STATUS.BUSY (R27) -/
  busy : Bool
  /-- STATUS.DONE (R28) -/
  done : Bool
  /-- STATUS.ERR (R29) -/
  err : Bool
  /-- STATUS.KSV (R30); it also tells that RK has been written (R39) -/
  ksv : Bool
  /-- STATUS.CHKD (R31) -/
  chkd : Bool
  /-- STATUS.CHKP (R31) -/
  chkp : Bool
  /-- STATUS.ERRCODE (R211) -/
  errcode : ErrCode
  /-- STATUS.ERROPC (R212) -/
  erropc : Opc
  /-- A, the first operand (R22) -/
  a : Word
  /-- B, the second operand (R23) -/
  b : Word
  /-- R, the result (R24) -/
  r : Word
  /-- RK[1..16], bits 47:0 of each; bits 63:48 are hardwired zero (R32) -/
  rk : Vector RoundKey 16
  /-- the pending record (R35) -/
  pending : Option Pending
  /-- the round datapath (R33) -/
  datapath : Datapath
  /-- the level of the reset input (R240): true while reset is asserted -/
  resetLine : Bool
  /-- A has been written since reset (R39) -/
  aWritten : Bool
  /-- B has been written since reset (R39) -/
  bWritten : Bool
  /-- R has been written since reset (R39) -/
  rWritten : Bool
  /-- UNINIT_OPERAND has occurred (R39, R221): recorded apart from ERR, for good -/
  uninitOperand : Bool
  /-- MODEL: the events still to come, the next one first (R60) -/
  inbox : List Event
  /-- MODEL: the values that host reads returned, the latest one first -/
  replies : List Word
  /-- MODEL: how many draws have been made (assumption log 3) -/
  draws : Nat
deriving DecidableEq, Repr

/-- The round datapath after reset: R38 leaves it unspecified and never read. DESIGN CHOICE: empty (log 2). -/
def Datapath.empty : Datapath := { round := 0, halves := [], subHalves := [], stages := [] }

/-- Right after reset (R38): CMD and STATUS are 0, nothing is pending, and A, B, R and RK are unwritten. R38 gives
A, B, R, RK and the datapath no value: here they hold 0 and the empty datapath. DESIGN CHOICE (unsafe, log 2). No event
has arrived. -/
def State.reset : State :=
  { params := defaultParams
    cmd := 0
    busy := false
    done := false
    err := false
    ksv := false
    chkd := false
    chkp := false
    errcode := .none
    erropc := 0
    a := 0
    b := 0
    r := 0
    rk := Vector.replicate 16 0
    pending := none
    datapath := Datapath.empty
    resetLine := false
    aWritten := false
    bWritten := false
    rWritten := false
    uninitOperand := false
    inbox := []
    replies := []
    draws := 0 }

end Sys2Proof.Machine
end

