-- ==== Sys2Proof/Machine/Flags.lean ====
section
/-! DEFINITION. The STATUS register: its word (10_state.md R26) and the codes of its ERRCODE field (R211). The block has no
other flags (R37). -/

namespace Sys2Proof.Machine

/-- The number of an error code (R211). -/
def errCodeNumber : ErrCode → BitVec 4
  | .none => 0
  | .busyViolation => 1
  | .illegalCmd => 2
  | .sboxIndex => 3
  | .roundIndex => 4
  | .noSchedule => 5
  | .width => 6
  | .eMismatch => 7
  | .selfcheckFail => 8

/-- What a read of STATUS returns (R26): ERROPC in bits 21:16, ERRCODE in 11:8, CHKP, CHKD, KSV, ERR, DONE and BUSY in 5:0,
and 0 in every reserved bit. -/
def statusWord (s : State) : Word :=
  zext s.erropc <<< 16 ||| zext (errCodeNumber s.errcode) <<< 8
    ||| zext (BitVec.ofBool s.chkp) <<< 5 ||| zext (BitVec.ofBool s.chkd) <<< 4
    ||| zext (BitVec.ofBool s.ksv) <<< 3 ||| zext (BitVec.ofBool s.err) <<< 2
    ||| zext (BitVec.ofBool s.done) <<< 1 ||| zext (BitVec.ofBool s.busy)

end Sys2Proof.Machine
end

