-- ==== Sys2Proof/Syntax.lean ====
section
/-! DEFINITION. The 21 commands of the block (30_encoding.md R72), one constructor per row of the opcode table. The data
operands are not part of a command: they come from the pending record (R78). -/

namespace Sys2Proof

/-- A decoded command. An indexed command carries its IDX operand (R73) as the number it denotes. -/
inductive Instr where
  /-- initial permutation (R103) -/
  | ip
  /-- final permutation, the inverse of IP (R105) -/
  | fp
  /-- E-expansion (R107) -/
  | e
  /-- inverse of the E-expansion (R108) -/
  | einv
  /-- P-permutation (R110) -/
  | p
  /-- inverse of P (R112) -/
  | pinv
  /-- PC1 selection (R114) -/
  | pc1
  /-- inverse of PC1 with parity regenerated (R116) -/
  | pc1inv
  /-- PC2 selection (R118) -/
  | pc2
  /-- inverse of PC2 with zeros at the unselected bits (R119) -/
  | pc2inv
  /-- single S-box, number `idx` (R142) -/
  | sbox (idx : Nat)
  /-- all eight S-boxes (R143) -/
  | sboxes
  /-- left half by position (R144) -/
  | lhalf
  /-- right half by position (R145) -/
  | rhalf
  /-- key-schedule rotation left, round `idx` (R161) -/
  | rotl (idx : Nat)
  /-- key-schedule rotation right, round `idx` (R162) -/
  | rotr (idx : Nat)
  /-- round function (R181) -/
  | f
  /-- key-schedule derivation (R163) -/
  | ks
  /-- encipher (R184) -/
  | enc
  /-- decipher (R185) -/
  | dec
  /-- self-check (R197) -/
  | check
deriving DecidableEq, Repr

/-- The IDX operand of a command; 0 where the command has none (R71, R74). -/
def Instr.index : Instr → Nat
  | .ip => 0
  | .fp => 0
  | .e => 0
  | .einv => 0
  | .p => 0
  | .pinv => 0
  | .pc1 => 0
  | .pc1inv => 0
  | .pc2 => 0
  | .pc2inv => 0
  | .sbox idx => idx
  | .sboxes => 0
  | .lhalf => 0
  | .rhalf => 0
  | .rotl idx => idx
  | .rotr idx => idx
  | .f => 0
  | .ks => 0
  | .enc => 0
  | .dec => 0
  | .check => 0

/-- Does the command take A as an operand? Every command but CHECK does (R39, D8). -/
def Instr.readsA : Instr → Bool
  | .ip => true
  | .fp => true
  | .e => true
  | .einv => true
  | .p => true
  | .pinv => true
  | .pc1 => true
  | .pc1inv => true
  | .pc2 => true
  | .pc2inv => true
  | .sbox _ => true
  | .sboxes => true
  | .lhalf => true
  | .rhalf => true
  | .rotl _ => true
  | .rotr _ => true
  | .f => true
  | .ks => true
  | .enc => true
  | .dec => true
  | .check => false

/-- Does the command take B as an operand? Only F does (R23). -/
def Instr.readsB : Instr → Bool
  | .ip => false
  | .fp => false
  | .e => false
  | .einv => false
  | .p => false
  | .pinv => false
  | .pc1 => false
  | .pc1inv => false
  | .pc2 => false
  | .pc2inv => false
  | .sbox _ => false
  | .sboxes => false
  | .lhalf => false
  | .rhalf => false
  | .rotl _ => false
  | .rotr _ => false
  | .f => true
  | .ks => false
  | .enc => false
  | .dec => false
  | .check => false

end Sys2Proof
end

