-- ==== Sys2Proof/WellFormed.lean ====
section
/-! DEFINITION. Which commands an encoding exists for: IDX is a 5-bit unsigned field (R71, R73). An index outside
1..8 or 1..16 is well-formed all the same: R73 says that such a word decodes, and the command itself raises the
index error. -/

namespace Sys2Proof

/-- The command's IDX operand fits the 5-bit field of the command word (R71, R73). -/
def Instr.wellFormed (i : Instr) : Bool := i.index < 32

end Sys2Proof
end

