-- ==== Sys2Proof/Decode.lean ====
section
/-! DEFINITION. The command decoder (30_encoding.md R81), total on every 64-bit write value, and after it the encoder. -/

namespace Sys2Proof

/-- Why a write value is no command (R75). -/
inductive DecodeError where
  /-- a reserved bit is set: bits 7:6, 31:13 or 63:32 (R75 item 2) -/
  | reservedBits
  /-- OPC is 0x00 or in 0x16..0x3F (R75 item 1) -/
  | unknownOpc
  /-- IDX is not 0 on a command that takes no index (R75 item 3) -/
  | indexNotAllowed
deriving DecidableEq, Repr

/-- OPC, bits 5:0 of a write value (R71). -/
def opcOf (v : Word) : Opc := v.extractLsb' 0 6

/-- IDX, bits 12:8 of a write value (R71). -/
def idxOf (v : Word) : BitVec 5 := v.extractLsb' 8 5

/-- Some reserved bit of the write value is set (R70, R71). -/
def reservedSet (v : Word) : Bool :=
  v.extractLsb' 32 32 != 0 || v.extractLsb' 6 2 != 0 || v.extractLsb' 13 19 != 0

/-- The command an OPC selects, given the IDX field (R72). -/
def commandOf (opc idx : Nat) : Option Instr :=
  match opc with
  | 0x01 => some .ip
  | 0x02 => some .fp
  | 0x03 => some .e
  | 0x04 => some .einv
  | 0x05 => some .p
  | 0x06 => some .pinv
  | 0x07 => some .pc1
  | 0x08 => some .pc1inv
  | 0x09 => some .pc2
  | 0x0A => some .pc2inv
  | 0x0B => some (.sbox idx)
  | 0x0C => some .sboxes
  | 0x0D => some .lhalf
  | 0x0E => some .rhalf
  | 0x0F => some (.rotl idx)
  | 0x10 => some (.rotr idx)
  | 0x11 => some .f
  | 0x12 => some .ks
  | 0x13 => some .enc
  | 0x14 => some .dec
  | 0x15 => some .check
  | _ => none

/-- `decode` of R81. An index that the selected command does not carry is the third way of being illegal. -/
def decode (v : Word) : Except DecodeError Instr :=
  if reservedSet v then .error .reservedBits
  else
    match commandOf (opcOf v).toNat (idxOf v).toNat with
    | none => .error .unknownOpc
    | some i => if i.index = (idxOf v).toNat then .ok i else .error .indexNotAllowed

/-- `legal` of R81. -/
def legal (v : Word) : Bool :=
  match decode v with
  | .ok _ => true
  | .error _ => false

/-- The OPC of a command (R72). -/
def opcode : Instr → Opc
  | .ip => 0x01#6
  | .fp => 0x02#6
  | .e => 0x03#6
  | .einv => 0x04#6
  | .p => 0x05#6
  | .pinv => 0x06#6
  | .pc1 => 0x07#6
  | .pc1inv => 0x08#6
  | .pc2 => 0x09#6
  | .pc2inv => 0x0A#6
  | .sbox _ => 0x0B#6
  | .sboxes => 0x0C#6
  | .lhalf => 0x0D#6
  | .rhalf => 0x0E#6
  | .rotl _ => 0x0F#6
  | .rotr _ => 0x10#6
  | .f => 0x11#6
  | .ks => 0x12#6
  | .enc => 0x13#6
  | .dec => 0x14#6
  | .check => 0x15#6

/-- The command word of a well-formed command: `zext_64((i << 8) | OPC)` (R71, R79, R82). -/
def encode (i : Instr) : Word :=
  (BitVec.ofNat 64 i.index <<< 8) ||| (opcode i).setWidth 64

/-- The decoder asked about an opcode-table row: the block takes one 64-bit write value (R77), and bits that the
row does not give are 0. -/
def decodeTableWord (nbits w : Nat) : Option Instr :=
  let v := w % 2 ^ nbits
  if v < 2 ^ 64 then
    match decode (BitVec.ofNat 64 v) with
    | .ok i => some i
    | .error _ => none
  else none

end Sys2Proof
end

