-- ==== Sys2Proof/Machine/Operands.lean ====
section
/-! DEFINITION. Operand assembly (30_encoding.md R78): the values of A and B captured at issue, and which of them the
command takes. -/

namespace Sys2Proof.Machine

/-- The value of A at issue. An unwritten A holds no value the spec defines (R39): it is a draw (log 3). -/
def captureA (s : State) : Word := if s.aWritten then s.a else Config.draw s.draws

/-- The value of B at issue; a draw where B is unwritten (R39). -/
def captureB (s : State) : Word := if s.bWritten then s.b else Config.draw (s.draws + 1)

/-- UNINIT_OPERAND (R39, R221): the command takes an operand that has not been written since reset. -/
def readsUnwritten (i : Instr) (s : State) : Bool :=
  (i.readsA && !s.aWritten) || (i.readsB && !s.bWritten)

/-- The OPC recorded for an error of a pending command: bits 5:0 of its word (R212). -/
def pendingOpc (p : Pending) : Opc := opcOf p.word

end Sys2Proof.Machine
end

