-- ==== Sys2Proof/Machine/Ops.lean ====
section
/-! DEFINITION. The operations every command shares: Complete (10_state.md R34), the result template (R101), the width
check (R100), and the error entry (R214), which is how this block takes an exception. There is no return from it:
only reset leaves the error state (R218). -/

namespace Sys2Proof.Machine

/-- `error_entry(code, opc)` (R214). Nothing but these STATUS fields is written. -/
def errorEntry (code : ErrCode) (opc : Opc) (s : State) : State :=
  { s with err := true, errcode := code, erropc := opc, done := false, busy := false }

/-- `raise Err(code)` by the command of the pending record `p`, at its Complete (R14, R212). -/
def raiseErr (code : ErrCode) (p : Pending) (s : State) : State := errorEntry code (pendingOpc p) s

/-- The pending record is consumed (first line of Complete, R34). -/
def retire (s : State) : State := { s with pending := none, busy := false }

/-- Complete (R34): the record is consumed and `body` performs the command on its operands. Complete is enabled exactly
when a record exists; without one nothing happens (assumption log 7). -/
def complete (s : State) (body : Pending → State → State) :
    Host.Outcome State Fault Refusal :=
  match s.pending with
  | none => .next s
  | some p => .next (body p (retire s))

/-- The result template (R101): `R <- zext_64(result)` and DONE. -/
def writeResult {W : Nat} (v : BitVec W) (s : State) : State :=
  { s with r := zext v, rWritten := true, done := true }

/-- `chk_W` on one operand of the pending record `p`, then `body` on the operand as a `W`-bit value (R100). -/
def withWidth (W : Nat) (v : Word) (p : Pending) (s : State) (body : BitVec W → State) : State :=
  if fits W v then body (v.setWidth W) else raiseErr .width p s

/-- A command of one `W`-bit operand, taken from A, with a result that is a function of it (R18, R100, R101). -/
def unary (W : Nat) {n : Nat} (fn : BitVec W → BitVec n) (p : Pending) (s : State) : State :=
  withWidth W p.a p s fun v => writeResult (fn v) s

end Sys2Proof.Machine
end

