-- ==== Sys2Proof/Machine/Bus.lean ====
section
/-! DEFINITION. The register window (20_memory.md), the issue of a command (10_state.md R34), the busy violation
(60_exceptions.md R213), and the reset input (70_reset_and_hazards.md). -/

namespace Sys2Proof.Machine

/-- What stands at an offset of the window (R51); `rk i` is RK[i + 1]. -/
inductive Slot where
  | cmd
  | status
  | a
  | b
  | r
  | unmapped
  | rk (i : Fin 16)
deriving DecidableEq, Repr

/-- The slot at an 8-aligned offset below 256 (R51). -/
def slotAt (off : Nat) : Slot :=
  match off / 8 with
  | 0 => .cmd
  | 1 => .status
  | 2 => .a
  | 3 => .b
  | 4 => .r
  | n => if 16 ≤ n then .rk (Fin.ofNat 16 (n - 16)) else .unmapped

/-- The offset of a slot's first byte, where it has just one place (R51); an unmapped slot has eleven, and 0x28 is the first. -/
def offsetOf : Slot → Nat
  | .cmd => 0x00
  | .status => 0x08
  | .a => 0x10
  | .b => 0x18
  | .r => 0x20
  | .unmapped => 0x28
  | .rk i => 0x80 + 8 * i.val

/-- The address lies in the window (R50). An access is judged by the address it starts at: one that starts below `DES_BASE` and
reaches into the window counts as outside it. DESIGN CHOICE: the spec does not say (assumption log 17). -/
def inWindow (s : State) (addr : Nat) : Bool :=
  s.params.desBase ≤ addr && addr < s.params.desBase + 256

/-- The access is one 64-bit access at an 8-aligned offset (R52; assumption log 15). -/
def accepted (s : State) (addr size : Nat) : Bool := size == 8 && (addr - s.params.desBase) % 8 == 0

/-- One access to the platform's address space: a fault outside the window (R50), a refusal of an access the block does not
accept (R53), and `body` on the slot otherwise. -/
def access (s : State) (addr size : Nat) (body : Slot → State) : Host.Outcome State Fault Refusal :=
  if inWindow s addr then
    if accepted s addr size then .next (body (slotAt (addr - s.params.desBase)))
    else .refused (.refusedAccess addr size)
  else .fault (.outsideWindow addr)

/-- The value a slot returns to a host read; `none` where the spec says "any value": an unmapped slot (R54), an unwritten
register (R39), and R and RK while BUSY = 1 (R59). -/
def slotValue (s : State) : Slot → Option Word
  | .cmd => some s.cmd
  | .status => some (statusWord s)
  | .a => if s.aWritten then some s.a else none
  | .b => if s.bWritten then some s.b else none
  | .r => if s.rWritten && !s.busy then some s.r else none
  | .unmapped => none
  | .rk i => if s.ksv && !s.busy then some (zext s.rk[i]) else none

/-- A host read gets the value (R60). -/
def reply (v : Word) (s : State) : State := { s with replies := v :: s.replies }

/-- A host read gets any value: a draw, fresh for each read (R39, R54, R59; log 3). -/
def replyDraw (s : State) : State :=
  { s with replies := Config.draw s.draws :: s.replies, draws := s.draws + 1 }

/-- A host read of a slot. It has no side effect on the block (R57). While reset is asserted the spec does not say what a
read returns: a draw (assumption log 9). -/
def readSlot (slot : Slot) (s : State) : State :=
  if s.resetLine then replyDraw s
  else
    match slotValue s slot with
    | some v => reply v s
    | none => replyDraw s

/-- `busy_violation()` (R213): the pending command and the violating write are discarded. While BUSY = 1 a record exists (R35;
assumption log 16). -/
def busyViolation (s : State) : State :=
  match s.pending with
  | some p => errorEntry .busyViolation (pendingOpc p) { s with pending := none }
  | none => errorEntry .busyViolation 0 s

/-- The issue of a decoded command (last branch of R34): the pending record captures the word, A and B. A command that takes
an unwritten operand is recorded as UNINIT_OPERAND (R39, R221; log 4). -/
def issue (v : Word) (i : Instr) (s : State) : State :=
  { s with
    pending := some { word := v, a := captureA s, b := captureB s }
    busy := true
    draws := s.draws + 2
    uninitOperand := s.uninitOperand || readsUnwritten i s }

/-- A host write to CMD (R34). -/
def writeCmd (v : Word) (s : State) : State :=
  if s.busy then busyViolation s
  else if s.err then s
  else
    match decode v with
    | .error _ => errorEntry .illegalCmd (opcOf v) { s with cmd := v, done := false }
    | .ok i => issue v i { s with cmd := v, done := false }

/-- A host write to A (R22, R57, R215). -/
def writeA (v : Word) (s : State) : State :=
  if s.busy then busyViolation s else { s with a := v, aWritten := true }

/-- A host write to B (R23, R57, R215). -/
def writeB (v : Word) (s : State) : State :=
  if s.busy then busyViolation s else { s with b := v, bWritten := true }

/-- A host write to a slot. A write to a read-only or unmapped slot is ignored (R54, R55). While reset is asserted the
state stays at its reset values (R240). -/
def writeSlot (slot : Slot) (v : Word) (s : State) : State :=
  if s.resetLine then s
  else
    match slot with
    | .cmd => writeCmd v s
    | .status => s
    | .a => writeA v s
    | .b => writeB v s
    | .r => s
    | .unmapped => s
    | .rk _ => s

/-- `MemRead(addr, size)` by the host (R14, R52). -/
def hostRead (addr size : Nat) (s : State) : Host.Outcome State Fault Refusal :=
  access s addr size fun slot => readSlot slot s

/-- `MemWrite(addr, size, v)` by the host (R14, R52). -/
def hostWrite (addr size : Nat) (v : Word) (s : State) : Host.Outcome State Fault Refusal :=
  access s addr size fun slot => writeSlot slot v s

/-- The block at its reset values (R38, R240, R241): a pending command is discarded. The parameters, the record of a model
fault, and the model's own fields are no state of the block, and stay. -/
def resetBlock (s : State) : State :=
  { State.reset with
    params := s.params
    resetLine := s.resetLine
    uninitOperand := s.uninitOperand
    inbox := s.inbox
    replies := s.replies
    draws := s.draws }

/-- Reset is asserted (R240). -/
def assertReset (s : State) : State := { resetBlock s with resetLine := true }

/-- Reset is released: "at the moment it is released" the block's state is at its reset values (R240, R242). -/
def releaseReset (s : State) : State := { resetBlock s with resetLine := false }

end Sys2Proof.Machine
end

