-- ==== Sys2Proof/Machine/Permutations.lean ====
section
/-! DEFINITION. The permutation network (41_permutations.md): the tables, the inverses, and the meanings of IP, FP, E, EINV, P,
PINV, PC1, PC1INV, PC2 and PC2INV. -/

namespace Sys2Proof.Machine

/-- Table IP (R102). -/
def tableIP : List Nat :=
  [58, 50, 42, 34, 26, 18, 10, 2, 60, 52, 44, 36, 28, 20, 12, 4,
   62, 54, 46, 38, 30, 22, 14, 6, 64, 56, 48, 40, 32, 24, 16, 8,
   57, 49, 41, 33, 25, 17, 9, 1, 59, 51, 43, 35, 27, 19, 11, 3,
   61, 53, 45, 37, 29, 21, 13, 5, 63, 55, 47, 39, 31, 23, 15, 7]

/-- Table FP (R104). -/
def tableFP : List Nat :=
  [40, 8, 48, 16, 56, 24, 64, 32, 39, 7, 47, 15, 55, 23, 63, 31,
   38, 6, 46, 14, 54, 22, 62, 30, 37, 5, 45, 13, 53, 21, 61, 29,
   36, 4, 44, 12, 52, 20, 60, 28, 35, 3, 43, 11, 51, 19, 59, 27,
   34, 2, 42, 10, 50, 18, 58, 26, 33, 1, 41, 9, 49, 17, 57, 25]

/-- Table E (R106). -/
def tableE : List Nat :=
  [32, 1, 2, 3, 4, 5, 4, 5, 6, 7, 8, 9, 8, 9, 10, 11, 12, 13, 12, 13, 14, 15, 16, 17,
   16, 17, 18, 19, 20, 21, 20, 21, 22, 23, 24, 25, 24, 25, 26, 27, 28, 29, 28, 29, 30, 31, 32, 1]

/-- The sixteen pairs of output positions of E that copy one input bit (R106). -/
def pairsE : List (Nat × Nat) :=
  [(2, 48), (5, 7), (6, 8), (11, 13), (12, 14), (17, 19), (18, 20), (23, 25),
   (24, 26), (29, 31), (30, 32), (35, 37), (36, 38), (41, 43), (42, 44), (1, 47)]

/-- `min(occ)` of R108 for each input position 1..32: the first output position of E that copies it. -/
def tableEINV : List Nat := (List.range' 1 32).map (positionIn tableE)

/-- Table P (R109). -/
def tableP : List Nat :=
  [16, 7, 20, 21, 29, 12, 28, 17, 1, 15, 23, 26, 5, 18, 31, 10,
   2, 8, 24, 14, 32, 27, 3, 9, 19, 13, 30, 6, 22, 11, 4, 25]

/-- Table PINV (R111). -/
def tablePINV : List Nat :=
  [9, 17, 23, 31, 13, 28, 2, 18, 24, 16, 30, 6, 26, 20, 10, 1,
   8, 14, 25, 3, 4, 29, 11, 19, 32, 12, 22, 7, 5, 27, 15, 21]

/-- Table PC1 (R113). -/
def tablePC1 : List Nat :=
  [57, 49, 41, 33, 25, 17, 9, 1, 58, 50, 42, 34, 26, 18, 10, 2, 59, 51, 43, 35, 27, 19, 11, 3, 60, 52, 44, 36,
   63, 55, 47, 39, 31, 23, 15, 7, 62, 54, 46, 38, 30, 22, 14, 6, 61, 53, 45, 37, 29, 21, 13, 5, 28, 20, 12, 4]

/-- The position in PC1 of each key position 1..64, and 0 for a parity bit (R116). -/
def tablePC1INV : List Nat :=
  [8, 16, 24, 56, 52, 44, 36, 0, 7, 15, 23, 55, 51, 43, 35, 0,
   6, 14, 22, 54, 50, 42, 34, 0, 5, 13, 21, 53, 49, 41, 33, 0,
   4, 12, 20, 28, 48, 40, 32, 0, 3, 11, 19, 27, 47, 39, 31, 0,
   2, 10, 18, 26, 46, 38, 30, 0, 1, 9, 17, 25, 45, 37, 29, 0]

/-- Table PC2 (R117). -/
def tablePC2 : List Nat :=
  [14, 17, 11, 24, 1, 5, 3, 28, 15, 6, 21, 10, 23, 19, 12, 4, 26, 8, 16, 7, 27, 20, 13, 2,
   41, 52, 31, 37, 47, 55, 30, 40, 51, 45, 33, 48, 44, 49, 39, 56, 34, 53, 46, 42, 50, 36, 29, 32]

/-- The position in PC2 of each state position 1..56, and 0 for an unselected one (R119). -/
def tablePC2INV : List Nat :=
  [5, 24, 7, 16, 6, 10, 20, 18, 0, 12, 3, 15, 23, 1, 9, 19,
   2, 0, 14, 22, 11, 0, 13, 4, 0, 17, 21, 8, 47, 31, 27, 48,
   35, 41, 0, 46, 28, 0, 39, 32, 25, 44, 0, 37, 34, 43, 29, 36,
   38, 45, 33, 26, 42, 0, 30, 40]

/-- `select(IP, 64, x)` (R103). -/
def permIP (x : Word) : Word := select 64 tableIP x

/-- `select(FP, 64, x)` (R105). -/
def permFP (x : Word) : Word := select 64 tableFP x

/-- `select(E, 32, x)` (R107). -/
def expandE (x : Half) : RoundKey := select 48 tableE x

/-- The copies of some duplicated input bit of E disagree (R108). -/
def mismatchE (v : RoundKey) : Bool := pairsE.any fun k => dbit v k.1 != dbit v k.2

/-- The value EINV returns: each input bit of E from its copy at `min(occ)` (R108). -/
def contractE (v : RoundKey) : Half := select 32 tableEINV v

/-- `select(P, 32, x)` (R110). -/
def permP (x : Half) : Half := select 32 tableP x

/-- `select(PINV, 32, x)` (R112). -/
def permPINV (x : Half) : Half := select 32 tablePINV x

/-- `select(PC1, 64, k)` (R114). -/
def selectPC1 (k : Word) : KeyState := select 56 tablePC1 k

/-- The key with the bits of `v` back in their places and every parity bit 0: the first loop of R116. -/
def spreadPC1 (v : KeyState) : Word := select 64 tablePC1INV v

/-- The exclusive-or of DES bits 8n-7..8n-1 of a key (R115). -/
def parityOf (k : Word) (n : Nat) : Bool :=
  (List.range' (8 * n - 7) 7).foldl (fun acc j => acc ^^ dbit k j) false

/-- The inverse of PC1: DES bit 8n is `1 ^` the parity of the seven bits before it (R115, R116). -/
def inversePC1 (v : KeyState) : Word :=
  ofDesBits 64
    ((List.range' 1 64).map fun j =>
      if j % 8 = 0 then !parityOf (spreadPC1 v) (j / 8) else dbit (spreadPC1 v) j)

/-- `select(PC2, 56, y)` (R118). -/
def selectPC2 (y : KeyState) : RoundKey := select 48 tablePC2 y

/-- The inverse of PC2, with 0 at the unselected positions (R119). -/
def inversePC2 (v : RoundKey) : KeyState := select 56 tablePC2INV v

/-- IP (R103). -/
def execIp (s : State) : Host.Outcome State Fault Refusal := complete s (unary 64 permIP)

/-- FP (R105). -/
def execFp (s : State) : Host.Outcome State Fault Refusal := complete s (unary 64 permFP)

/-- E (R107). -/
def execE (s : State) : Host.Outcome State Fault Refusal := complete s (unary 32 expandE)

/-- EINV (R108): WIDTH first, then E_MISMATCH (R216). -/
def execEinv (s : State) : Host.Outcome State Fault Refusal :=
  complete s fun p t =>
    withWidth 48 p.a p t fun v =>
      if mismatchE v then raiseErr .eMismatch p t else writeResult (contractE v) t

/-- P (R110). -/
def execP (s : State) : Host.Outcome State Fault Refusal := complete s (unary 32 permP)

/-- PINV (R112). -/
def execPinv (s : State) : Host.Outcome State Fault Refusal := complete s (unary 32 permPINV)

/-- PC1 (R114). -/
def execPc1 (s : State) : Host.Outcome State Fault Refusal := complete s (unary 64 selectPC1)

/-- PC1INV (R116). -/
def execPc1inv (s : State) : Host.Outcome State Fault Refusal := complete s (unary 56 inversePC1)

/-- PC2 (R118). -/
def execPc2 (s : State) : Host.Outcome State Fault Refusal := complete s (unary 56 selectPC2)

/-- PC2INV (R119). -/
def execPc2inv (s : State) : Host.Outcome State Fault Refusal := complete s (unary 48 inversePC2)

end Sys2Proof.Machine
end

