-- ==== Sys2Proof/Machine/KeySchedule.lean ====
section
/-! DEFINITION. The key schedule (43_key_schedule.md): the shift table, and the meanings of ROTL, ROTR and KS. -/

namespace Sys2Proof.Machine

/-- `SHIFT01[r]` for r = 1..16 (R160). -/
def tableShift01 : List Nat := [0, 0, 1, 1, 1, 1, 1, 1, 0, 1, 1, 1, 1, 1, 1, 0]

/-- `amt(r)`, the number of positions rotated in round r = 1..16 (R160, 90_conflicts.md C5). -/
def amt (r : Nat) : Nat := 1 + tableShift01.getD (r - 1) 0

/-- C, bits 55:28 of the key-schedule state (R120). -/
def halfC (y : KeyState) : SubHalf := y.extractLsb' 28 28

/-- D, bits 27:0 of the key-schedule state (R120). -/
def halfD (y : KeyState) : SubHalf := y.extractLsb' 0 28

/-- Both sub-halves rotated left, each on its own (R161). -/
def rotlState (n : Nat) (y : KeyState) : KeyState := rotl28 (halfC y) n ++ rotl28 (halfD y) n

/-- Both sub-halves rotated right, each on its own (R162). -/
def rotrState (n : Nat) (y : KeyState) : KeyState := rotr28 (halfC y) n ++ rotr28 (halfD y) n

/-- `C_i ++ D_i` of the key schedule (R164). -/
def keyState (key : Word) : Nat → KeyState
  | 0 => selectPC1 key
  | i + 1 => rotlState (amt (i + 1)) (keyState key i)

/-- Round key `K_i` (R164). -/
def roundKey (key : Word) (i : Nat) : RoundKey := selectPC2 (keyState key i)

/-- The sixteen round keys that KS derives (R163); entry `i - 1` is `K_i`. -/
def keySchedule (key : Word) : Vector RoundKey 16 := Vector.ofFn fun i => roundKey key (i.val + 1)

/-- The sub-halves `(C_i, D_i)` for i = 0..16 that a derivation passes through (R33, R164). -/
def subHalfTrace (key : Word) : List (SubHalf × SubHalf) :=
  (List.range 17).map fun i => (halfC (keyState key i), halfD (keyState key i))

/-- ROTL (R161): ROUND_INDEX first, then WIDTH (R216). -/
def execRotl (idx : Nat) (s : State) : Host.Outcome State Fault Refusal :=
  complete s fun p t =>
    if idx < 1 ∨ 16 < idx then raiseErr .roundIndex p t else unary 56 (rotlState (amt idx)) p t

/-- ROTR (R162): ROUND_INDEX first, then WIDTH (R216). -/
def execRotr (idx : Nat) (s : State) : Host.Outcome State Fault Refusal :=
  complete s fun p t =>
    if idx < 1 ∨ 16 < idx then raiseErr .roundIndex p t else unary 56 (rotrState (amt idx)) p t

/-- KS (R163): the whole round-key file, KSV and DONE in one step; R is not written. The datapath has passed through
the sub-halves of the derivation (R33, assumption log 8). -/
def execKs (s : State) : Host.Outcome State Fault Refusal :=
  complete s fun p t =>
    { t with
      rk := keySchedule p.a
      ksv := true
      done := true
      datapath := { round := 16, halves := [], subHalves := subHalfTrace p.a, stages := [] } }

end Sys2Proof.Machine
end

