-- ==== Sys2Proof/Machine/SBoxes.lean ====
section
/-! DEFINITION. S-box substitution and half extraction (42_sboxes_halves.md): the boxes, and the meanings of SBOX, SBOXES, LHALF
and RHALF. -/

namespace Sys2Proof.Machine

/-- Box S1 (R140): rows 0 to 3, each with its columns 0 to 15. -/
def tableS1 : List (List Nat) :=
  [[14, 4, 13, 1, 2, 15, 11, 8, 3, 10, 6, 12, 5, 9, 0, 7],
   [0, 15, 7, 4, 14, 2, 13, 1, 10, 6, 12, 11, 9, 5, 3, 8],
   [4, 1, 14, 8, 13, 6, 2, 11, 15, 12, 9, 7, 3, 10, 5, 0],
   [15, 12, 8, 2, 4, 9, 1, 7, 5, 11, 3, 14, 10, 0, 6, 13]]

/-- Box S2 (R140): rows 0 to 3, each with its columns 0 to 15. -/
def tableS2 : List (List Nat) :=
  [[15, 1, 8, 14, 6, 11, 3, 4, 9, 7, 2, 13, 12, 0, 5, 10],
   [3, 13, 4, 7, 15, 2, 8, 14, 12, 0, 1, 10, 6, 9, 11, 5],
   [0, 14, 7, 11, 10, 4, 13, 1, 5, 8, 12, 6, 9, 3, 2, 15],
   [13, 8, 10, 1, 3, 15, 4, 2, 11, 6, 7, 12, 0, 5, 14, 9]]

/-- Box S3 (R140): rows 0 to 3, each with its columns 0 to 15. -/
def tableS3 : List (List Nat) :=
  [[10, 0, 9, 14, 6, 3, 15, 5, 1, 13, 12, 7, 11, 4, 2, 8],
   [13, 7, 0, 9, 3, 4, 6, 10, 2, 8, 5, 14, 12, 11, 15, 1],
   [13, 6, 4, 9, 8, 15, 3, 0, 11, 1, 2, 12, 5, 10, 14, 7],
   [1, 10, 13, 0, 6, 9, 8, 7, 4, 15, 14, 3, 11, 5, 2, 12]]

/-- Box S4 (R140): rows 0 to 3, each with its columns 0 to 15. -/
def tableS4 : List (List Nat) :=
  [[7, 13, 14, 3, 0, 6, 9, 10, 1, 2, 8, 5, 11, 12, 4, 15],
   [13, 8, 11, 5, 6, 15, 0, 3, 4, 7, 2, 12, 1, 10, 14, 9],
   [10, 6, 9, 0, 12, 11, 7, 13, 15, 1, 3, 14, 5, 2, 8, 4],
   [3, 15, 0, 6, 10, 1, 13, 8, 9, 4, 5, 11, 12, 7, 2, 14]]

/-- Box S5 (R140): rows 0 to 3, each with its columns 0 to 15. -/
def tableS5 : List (List Nat) :=
  [[2, 12, 4, 1, 7, 10, 11, 6, 8, 5, 3, 15, 13, 0, 14, 9],
   [14, 11, 2, 12, 4, 7, 13, 1, 5, 0, 15, 10, 3, 9, 8, 6],
   [4, 2, 1, 11, 10, 13, 7, 8, 15, 9, 12, 5, 6, 3, 0, 14],
   [11, 8, 12, 7, 1, 14, 2, 13, 6, 15, 0, 9, 10, 4, 5, 3]]

/-- Box S6 (R140): rows 0 to 3, each with its columns 0 to 15. -/
def tableS6 : List (List Nat) :=
  [[12, 1, 10, 15, 9, 2, 6, 8, 0, 13, 3, 4, 14, 7, 5, 11],
   [10, 15, 4, 2, 7, 12, 9, 5, 6, 1, 13, 14, 0, 11, 3, 8],
   [9, 14, 15, 5, 2, 8, 12, 3, 7, 0, 4, 10, 1, 13, 11, 6],
   [4, 3, 2, 12, 9, 5, 15, 10, 11, 14, 1, 7, 6, 0, 8, 13]]

/-- Box S7 (R140): rows 0 to 3, each with its columns 0 to 15. -/
def tableS7 : List (List Nat) :=
  [[4, 11, 2, 14, 15, 0, 8, 13, 3, 12, 9, 7, 5, 10, 6, 1],
   [13, 0, 11, 7, 4, 9, 1, 10, 14, 3, 5, 12, 2, 15, 8, 6],
   [1, 4, 11, 13, 12, 3, 7, 14, 10, 15, 6, 8, 0, 5, 9, 2],
   [6, 11, 13, 8, 1, 4, 10, 7, 9, 5, 0, 15, 14, 2, 3, 12]]

/-- Box S8 (R140): rows 0 to 3, each with its columns 0 to 15. -/
def tableS8 : List (List Nat) :=
  [[13, 2, 8, 4, 6, 15, 11, 1, 10, 9, 3, 14, 5, 0, 12, 7],
   [1, 15, 13, 8, 10, 3, 7, 4, 12, 5, 6, 11, 0, 14, 9, 2],
   [7, 11, 4, 1, 9, 12, 14, 2, 0, 6, 10, 13, 15, 3, 5, 8],
   [2, 1, 14, 7, 4, 10, 8, 13, 15, 12, 9, 0, 3, 5, 6, 11]]

/-- The rows of box `n`, for n = 1..8 (R140). -/
def tableS (n : Nat) : List (List Nat) :=
  match n with
  | 1 => tableS1
  | 2 => tableS2
  | 3 => tableS3
  | 4 => tableS4
  | 5 => tableS5
  | 6 => tableS6
  | 7 => tableS7
  | 8 => tableS8
  | _ => []

/-- The row of a 6-bit input: its outer bits (R141). -/
def rowOf (v : BitVec 6) : Nat := 2 * (v.getLsbD 5).toNat + (v.getLsbD 0).toNat

/-- The column of a 6-bit input: its inner bits (R141). -/
def colOf (v : BitVec 6) : Nat := (v.extractLsb' 1 4).toNat

/-- `S_n[row][col]` for box `n` = 1..8 (R141). -/
def sbox (n : Nat) (v : BitVec 6) : BitVec 4 :=
  BitVec.ofNat 4 (((tableS n).getD (rowOf v) []).getD (colOf v) 0)

/-- Group `n` = 1..8 of a 48-bit value, DES bits 6n-5..6n (R143). -/
def groupOf (x : RoundKey) (n : Nat) : BitVec 6 := x.extractLsb' (42 - 6 * (n - 1)) 6

/-- Lane `n` of SBOXES: box `n` on group `n` (R146). -/
def lane (x : RoundKey) (n : Nat) : BitVec 4 := sbox n (groupOf x n)

/-- `SBOXES_fn` (R143): the eight lanes, lane 1 the most significant. -/
def sboxes (x : RoundKey) : Half :=
  lane x 1 ++ lane x 2 ++ lane x 3 ++ lane x 4 ++ lane x 5 ++ lane x 6 ++ lane x 7 ++ lane x 8

/-- The left half by position, `x[63:32]` (R144). -/
def leftHalf (x : Word) : Half := x.extractLsb' 32 32

/-- The right half by position, `x[31:0]` (R145). -/
def rightHalf (x : Word) : Half := x.extractLsb' 0 32

/-- SBOX (R142): SBOX_INDEX first, then WIDTH (R216). -/
def execSbox (idx : Nat) (s : State) : Host.Outcome State Fault Refusal :=
  complete s fun p t =>
    if idx < 1 ∨ 8 < idx then raiseErr .sboxIndex p t else unary 6 (sbox idx) p t

/-- SBOXES (R143). -/
def execSboxes (s : State) : Host.Outcome State Fault Refusal := complete s (unary 48 sboxes)

/-- LHALF (R144). -/
def execLhalf (s : State) : Host.Outcome State Fault Refusal := complete s (unary 64 leftHalf)

/-- RHALF (R145). -/
def execRhalf (s : State) : Host.Outcome State Fault Refusal := complete s (unary 64 rightHalf)

end Sys2Proof.Machine
end

