-- ==== Sys2Proof/Machine/Cipher.lean ====
section
/-! DEFINITION. The round function and the cipher (44_round_cipher.md), and the meanings of F, ENC, DEC and CHECK. -/

namespace Sys2Proof.Machine

/-- `f(rk, h)` (R180). -/
def roundF (rk : RoundKey) (h : Half) : Half := permP (sboxes (expandE h ^^^ rk))

/-- The stage values of `f(rk, h)` (R182). -/
def stagesOf (rk : RoundKey) (h : Half) : Stages :=
  { e := expandE h
    x := expandE h ^^^ rk
    s := sboxes (expandE h ^^^ rk)
    f := permP (sboxes (expandE h ^^^ rk)) }

/-- One round: `(L, R)` becomes `(R, L ^ f(k, R))` (R183). -/
def feistelRound (h : Half × Half) (k : RoundKey) : Half × Half := (h.2, h.1 ^^^ roundF k h.2)

/-- `(L_0, R_0)` of an input block (R183). -/
def startHalves (x : Word) : Half × Half := (leftHalf (permIP x), rightHalf (permIP x))

/-- `(L_n, R_n)` after the rounds of the given round keys (R183). -/
def roundsOf (keys : List RoundKey) (h : Half × Half) : Half × Half := keys.foldl feistelRound h

/-- `feistel((k_1..k_16), x)` (R183): the halves are swapped before FP. -/
def feistel (keys : List RoundKey) (x : Word) : Word :=
  let h := roundsOf keys (startHalves x)
  permFP (h.2 ++ h.1)

/-- ENC under a round-key file: the keys in the order 1..16 (R184). -/
def encipher (rk : Vector RoundKey 16) (x : Word) : Word := feistel rk.toList x

/-- DEC under a round-key file: the keys in the order 16..1 (R185). -/
def decipher (rk : Vector RoundKey 16) (x : Word) : Word := feistel rk.toList.reverse x

/-- The halves `(L_i, R_i)`, from i = 0 on, that the rounds pass through (R33, R183). -/
def halvesTrace : List RoundKey → Half × Half → List (Half × Half)
  | [], h => [h]
  | k :: ks, h => h :: halvesTrace ks (feistelRound h k)

/-- The stages of every round that the rounds pass through (R33, R182). -/
def stageTrace : List RoundKey → Half × Half → List Stages
  | [], _ => []
  | k :: ks, h => stagesOf k h.2 :: stageTrace ks (feistelRound h k)

/-- What the datapath has passed through after an encipherment or decipherment (R33, assumption log 8). -/
def cipherDatapath (keys : List RoundKey) (x : Word) : Datapath :=
  { round := 16
    halves := halvesTrace keys (startHalves x)
    subHalves := []
    stages := stageTrace keys (startHalves x) }

/-- One triple of the self-check in both directions, under the schedule of its own key (R197). -/
def checkTriple (t : KnownAnswer) : Bool :=
  encipher (keySchedule t.key) t.plain == t.cipher && decipher (keySchedule t.key) t.cipher == t.plain

/-- `pass` of R197. -/
def selfCheck (set : List KnownAnswer) : Bool := set.all checkTriple

/-- What the datapath has passed through after one triple: the derivation, the encipherment and the decipherment
(R33, R197). -/
def tripleDatapath (t : KnownAnswer) : Datapath :=
  let enc := cipherDatapath (keySchedule t.key).toList t.plain
  let dec := cipherDatapath (keySchedule t.key).toList.reverse t.cipher
  { round := 16
    halves := enc.halves ++ dec.halves
    subHalves := subHalfTrace t.key
    stages := enc.stages ++ dec.stages }

/-- What the datapath has passed through after a self-check: "the same values for each triple it runs" (R33). -/
def checkDatapath (set : List KnownAnswer) : Datapath :=
  { round := 16
    halves := set.flatMap fun t => (tripleDatapath t).halves
    subHalves := set.flatMap fun t => (tripleDatapath t).subHalves
    stages := set.flatMap fun t => (tripleDatapath t).stages }

/-- F (R181): A is the round key and B the half; both widths are checked. -/
def execF (s : State) : Host.Outcome State Fault Refusal :=
  complete s fun p t =>
    withWidth 48 p.a p t fun rk =>
      withWidth 32 p.b p t fun h =>
        writeResult (roundF rk h)
          { t with datapath := { round := 0, halves := [], subHalves := [], stages := [stagesOf rk h] } }

/-- ENC (R184). -/
def execEnc (s : State) : Host.Outcome State Fault Refusal :=
  complete s fun p t =>
    if t.ksv then
      writeResult (encipher t.rk p.a) { t with datapath := cipherDatapath t.rk.toList p.a }
    else raiseErr .noSchedule p t

/-- DEC (R185). -/
def execDec (s : State) : Host.Outcome State Fault Refusal :=
  complete s fun p t =>
    if t.ksv then
      writeResult (decipher t.rk p.a) { t with datapath := cipherDatapath t.rk.toList.reverse p.a }
    else raiseErr .noSchedule p t

/-- CHECK (R197): CHKD and CHKP are written either way (90_conflicts.md C2); a failure also raises SELFCHECK_FAIL. The
schedules it derives stay in scratch: RK and KSV are not touched. -/
def execCheck (s : State) : Host.Outcome State Fault Refusal :=
  complete s fun p t =>
    if selfCheck t.params.selfcheckSet then
      { t with chkd := true, chkp := true, done := true, datapath := checkDatapath t.params.selfcheckSet }
    else raiseErr .selfcheckFail p { t with chkd := true, chkp := false }

end Sys2Proof.Machine
end

