-- ==== Sys2Proof/Machine/Dispatch.lean ====
section
/-! DEFINITION. Each command and its meaning: what Complete does (10_state.md R34, "one rule per OPC"). -/

namespace Sys2Proof.Machine

def exec (i : Instr) (s : State) : Host.Outcome State Fault Refusal :=
  match i with
  | .ip => Sys2Proof.Machine.execIp s
  | .fp => Sys2Proof.Machine.execFp s
  | .e => Sys2Proof.Machine.execE s
  | .einv => Sys2Proof.Machine.execEinv s
  | .p => Sys2Proof.Machine.execP s
  | .pinv => Sys2Proof.Machine.execPinv s
  | .pc1 => Sys2Proof.Machine.execPc1 s
  | .pc1inv => Sys2Proof.Machine.execPc1inv s
  | .pc2 => Sys2Proof.Machine.execPc2 s
  | .pc2inv => Sys2Proof.Machine.execPc2inv s
  | .sbox idx => Sys2Proof.Machine.execSbox idx s
  | .sboxes => Sys2Proof.Machine.execSboxes s
  | .lhalf => Sys2Proof.Machine.execLhalf s
  | .rhalf => Sys2Proof.Machine.execRhalf s
  | .rotl idx => Sys2Proof.Machine.execRotl idx s
  | .rotr idx => Sys2Proof.Machine.execRotr idx s
  | .f => Sys2Proof.Machine.execF s
  | .ks => Sys2Proof.Machine.execKs s
  | .enc => Sys2Proof.Machine.execEnc s
  | .dec => Sys2Proof.Machine.execDec s
  | .check => Sys2Proof.Machine.execCheck s

end Sys2Proof.Machine
end

