-- ==== Sys2Proof/Machine/Engine.lean ====
section
/-! DEFINITION. The engine's turn, and one event of an execution (20_memory.md R60). -/

namespace Sys2Proof.Machine

/-- The engine's turn: where a command is pending, Complete performs it (R34); otherwise the block is idle and keeps all its
state (R228). -/
def engineTurn (s : State) : Host.Outcome State Fault Refusal :=
  match s.pending with
  | none => .next s
  | some p =>
    match decode p.word with
    | .ok i => exec i s
    | .error _ => .refused (.illegalPending p.word)

/-- One event (R60). A release of a reset that is not asserted changes nothing. -/
def handle (ev : Event) (s : State) : Host.Outcome State Fault Refusal :=
  match ev with
  | .write addr size v => hostWrite addr size v s
  | .read addr size => hostRead addr size s
  | .engine => engineTurn s
  | .assertReset => .next (assertReset s)
  | .releaseReset => .next (if s.resetLine then releaseReset s else s)

/-- The next event of the execution happens. With no event left the engine has its turn, so that no command stays
pending forever (weak fairness, R251). -/
def nextEvent (s : State) : Host.Outcome State Fault Refusal :=
  match s.inbox with
  | [] => engineTurn s
  | ev :: rest => handle ev { s with inbox := rest }

/-- `s` with the write value `w mod 2^nbits` issued, as by the host's write of it to CMD (R34): CMD and the pending record
hold it, with the values A and B hold, and the engine's turn comes next. -/
def placeCommand (nbits w : Nat) (s : State) : State :=
  let v := BitVec.ofNat 64 (w % 2 ^ nbits)
  { s with
    cmd := v
    done := false
    pending := some { word := v, a := s.a, b := s.b }
    busy := true
    inbox := .engine :: s.inbox }

end Sys2Proof.Machine
end

