-- ==== Sys2Proof/Machine/Step.lean ====
section
/-! DEFINITION. One step of the machine: one event of an execution. -/

namespace Sys2Proof.Machine

/-- One step: the next host access, engine turn or change of the reset input (20_memory.md R60). -/
def step (s : State) : Host.Outcome State Fault Refusal := nextEvent s

/-- The state in which the very next step completes the command word `w`: this block has no instruction memory (R21), so the
word stands in the pending record, as after the host's write of it to CMD (assumption log 10). -/
def State.withFetchWord (s : State) (nbits w : Nat) : State := placeCommand nbits w s

end Sys2Proof.Machine
end

