-- ==== Sys2Proof/Machine/HostSyntax.lean ====
section
/-! DEFINITION. The host's assembly syntax (30_encoding.md R79) and the pseudo-instructions WAIT, RUN and CALL (R80), as the events
they expand to. HOST and EXPECT are the host's own computations and reach no register. -/

namespace Sys2Proof.Machine

/-- `WR <reg>, <value>` (R79). -/
def wr (base : Nat) (reg : Slot) (v : Word) : Event := .write (base + offsetOf reg) 8 v

/-- `RD <reg>` (R79). -/
def rd (base : Nat) (reg : Slot) : Event := .read (base + offsetOf reg) 8

/-- `CMD <mnemonic> [i]` (R79). -/
def cmdStatement (base : Nat) (i : Instr) : Event := wr base .cmd (encode i)

/-- `WAIT` (R80): the STATUS reads that still see BUSY = 1, the Complete step, and the read that ends the loop. -/
def waitEvents (base polls : Nat) : List Event :=
  List.replicate polls (rd base .status) ++ [.engine, rd base .status]

/-- `RUN <mnemonic> [i]` (R80). -/
def runEvents (base polls : Nat) (i : Instr) : List Event :=
  cmdStatement base i :: waitEvents base polls

/-- `CALL <mnemonic> [i], <a> -> <name>` (R80); the last read returns the result. -/
def callEvents (base polls : Nat) (i : Instr) (a : Word) : List Event :=
  wr base .a a :: runEvents base polls i ++ [rd base .r]

/-- `CALL F, <rk>, <half> -> <name>` (R80). -/
def callFEvents (base polls : Nat) (rk half : Word) : List Event :=
  wr base .a rk :: wr base .b half :: runEvents base polls .f ++ [rd base .r]

end Sys2Proof.Machine
end

