-- ==== Sys2Proof/Safety.lean ====
section
/-! DEFINITION. What claims are stated in: the invariant of the block, and what a claim about a run may rest on. -/

namespace Sys2Proof.Machine

/-- What the rules say of STATUS, CMD and the pending record at every moment. -/
structure State.Inv (s : State) : Prop where
  /-- "The record exists exactly while STATUS.BUSY = 1" (R35). -/
  busy_iff_pending : s.busy = s.pending.isSome
  /-- The pending word is the one CMD reads (R25, R34), and it is legal (R34). -/
  pending_word : ∀ p, s.pending = some p → p.word = s.cmd ∧ legal p.word = true
  /-- DONE "is never 1 while BUSY = 1 or ERR = 1" (R28). -/
  done_alone : s.done = true → s.busy = false ∧ s.err = false
  /-- "BUSY is 0 in this state" (R215). -/
  err_not_busy : s.err = true → s.busy = false
  /-- ERRCODE and ERROPC are 0 when ERR = 0 (R26). -/
  no_error_record : s.err = false → s.errcode = .none ∧ s.erropc = 0
  /-- ERRCODE is the code of an error when ERR = 1 (R26, R211). -/
  error_record : s.err = true → s.errcode ≠ .none
  /-- CHKP is the result of a completed CHECK (R31). -/
  pass_is_checked : s.chkp = true → s.chkd = true
  /-- CHKD without CHKP is exactly a failed self-check (R31, R197). -/
  failed_check : s.errcode = .selfcheckFail ↔ s.chkd = true ∧ s.chkp = false
  /-- NO_SCHEDULE is the error of a block without a schedule (R211). -/
  no_schedule : s.errcode = .noSchedule → s.ksv = false
  /-- `DES_BASE` is 256-byte aligned (R50). -/
  base_aligned : s.params.desBase % 256 = 0
  /-- While reset is asserted the block is at its reset values (R240). -/
  held_in_reset : s.resetLine = true →
    s.cmd = 0 ∧ statusWord s = 0 ∧ s.pending = none ∧
      s.aWritten = false ∧ s.bWritten = false ∧ s.rWritten = false

/-- The run so far can carry a claim: no error (R219: a state with ERR = 1 "is never a successful final state"), and no
UNINIT_OPERAND (R221: "a claim about a run must assume neither occurs"; REFUSED_ACCESS stops the run by itself). -/
def State.clean (s : State) : Bool := !s.err && !s.uninitOperand

/-- Idle and able to accept a command: nothing pending, no error, reset released (R34, R228, R242). -/
def State.ready (s : State) : Bool :=
  s.pending.isNone && !s.busy && !s.err && !s.resetLine

end Sys2Proof.Machine
end

