-- ==== Sys2Proof/Certificates/Slice0/Obligations.lean ====
section
/-! DEFINITION. The statements for the provers. First the vocabulary, written from the spec's rules and not from the model's
functions (the tables stand here a second time; only the S-box contents are the model's), then one
`def Obligations.<Name>` each. -/

namespace Sys2Proof.Spec

open Sys2Proof.Machine

/-! ### Vocabulary -/

/-- The state after a command that completes with the result `v` (R101): everything else is as before. -/
def resultState (s : State) (v : Word) : State :=
  { s with pending := none, busy := false, done := true, r := v, rWritten := true }

/-- The state after the pending command `p` ends in the error `code` (R214, R217): everything else is as before. -/
def errorState (s : State) (p : Pending) (code : ErrCode) : State :=
  { s with
    pending := none
    busy := false
    done := false
    err := true
    errcode := code
    erropc := p.word.extractLsb' 0 6 }

/-- `v = select(T, W, x)` (R12), bit by bit: DES bit j of `v` is DES bit `T[j]` of `x`, in integer positions (R11). -/
def Selects {W n : Nat} (T : List Nat) (x : BitVec W) (v : BitVec n) : Prop :=
  ∀ j, 1 ≤ j → j ≤ n → v.getLsbD (n - j) = x.getLsbD (W - T.getD (j - 1) 0)

/-- R102. -/
def listIP : List Nat :=
  [58, 50, 42, 34, 26, 18, 10, 2, 60, 52, 44, 36, 28, 20, 12, 4, 62, 54, 46, 38, 30, 22, 14, 6, 64, 56, 48, 40, 32, 24, 16, 8] ++
  [57, 49, 41, 33, 25, 17, 9, 1, 59, 51, 43, 35, 27, 19, 11, 3, 61, 53, 45, 37, 29, 21, 13, 5, 63, 55, 47, 39, 31, 23, 15, 7]

/-- R104. -/
def listFP : List Nat :=
  [40, 8, 48, 16, 56, 24, 64, 32, 39, 7, 47, 15, 55, 23, 63, 31, 38, 6, 46, 14, 54, 22, 62, 30, 37, 5, 45, 13, 53, 21, 61, 29] ++
  [36, 4, 44, 12, 52, 20, 60, 28, 35, 3, 43, 11, 51, 19, 59, 27, 34, 2, 42, 10, 50, 18, 58, 26, 33, 1, 41, 9, 49, 17, 57, 25]

/-- R106. -/
def listE : List Nat :=
  [32, 1, 2, 3, 4, 5, 4, 5, 6, 7, 8, 9, 8, 9, 10, 11, 12, 13, 12, 13, 14, 15, 16, 17] ++
  [16, 17, 18, 19, 20, 21, 20, 21, 22, 23, 24, 25, 24, 25, 26, 27, 28, 29, 28, 29, 30, 31, 32, 1]

/-- The duplicated pairs of R106. -/
def listPairs : List (Nat × Nat) :=
  [(2, 48), (5, 7), (6, 8), (11, 13), (12, 14), (17, 19), (18, 20), (23, 25)] ++
  [(24, 26), (29, 31), (30, 32), (35, 37), (36, 38), (41, 43), (42, 44), (1, 47)]

/-- R109. -/
def listP : List Nat :=
  [16, 7, 20, 21, 29, 12, 28, 17, 1, 15, 23, 26, 5, 18, 31, 10] ++
  [2, 8, 24, 14, 32, 27, 3, 9, 19, 13, 30, 6, 22, 11, 4, 25]

/-- R111. -/
def listPINV : List Nat :=
  [9, 17, 23, 31, 13, 28, 2, 18, 24, 16, 30, 6, 26, 20, 10, 1] ++
  [8, 14, 25, 3, 4, 29, 11, 19, 32, 12, 22, 7, 5, 27, 15, 21]

/-- R113. -/
def listPC1 : List Nat :=
  [57, 49, 41, 33, 25, 17, 9, 1, 58, 50, 42, 34, 26, 18, 10, 2, 59, 51, 43, 35, 27, 19, 11, 3, 60, 52, 44, 36] ++
  [63, 55, 47, 39, 31, 23, 15, 7, 62, 54, 46, 38, 30, 22, 14, 6, 61, 53, 45, 37, 29, 21, 13, 5, 28, 20, 12, 4]

/-- R117. -/
def listPC2 : List Nat :=
  [14, 17, 11, 24, 1, 5, 3, 28, 15, 6, 21, 10, 23, 19, 12, 4, 26, 8, 16, 7, 27, 20, 13, 2] ++
  [41, 52, 31, 37, 47, 55, 30, 40, 51, 45, 33, 48, 44, 49, 39, 56, 34, 53, 46, 42, 50, 36, 29, 32]

/-- The amount of round r (R160): "1 for rounds 1, 2, 9 and 16, and 2 for every other round". -/
def rotationAmount (r : Nat) : Nat := if r ∈ [1, 2, 9, 16] then 1 else 2

/-- A 64-bit command of one operand: `word` is its command word, and it always completes with `select(T, 64, a)`. -/
def SelectCommand64 (i : Instr) (word : Word) (n : Nat) (T : List Nat) : Prop :=
  decode word = .ok i ∧
  ∀ (s : State) (p : Pending), s.pending = some p →
    ∃ v : BitVec n, Selects T p.a v ∧ exec i s = .next (resultState s (v.setWidth 64))

/-- A command of one `W`-bit operand, W < 64: `word` is its command word, and it completes with `select(T, W, a)`, or with
WIDTH where the operand is too wide (R100). -/
def SelectCommand (i : Instr) (word : Word) (W n : Nat) (T : List Nat) : Prop :=
  decode word = .ok i ∧
  ∀ (s : State) (p : Pending), s.pending = some p →
    (p.a.toNat < 2 ^ W →
      ∃ v : BitVec n, Selects T (p.a.setWidth W) v ∧ exec i s = .next (resultState s (v.setWidth 64))) ∧
    (2 ^ W ≤ p.a.toNat → exec i s = .next (errorState s p .width))

/-- `o = S_n[row][col]` for the 6-bit input `g` (R141). -/
def IsSbox (n : Nat) (g : BitVec 6) (o : BitVec 4) : Prop :=
  o.toNat = ((tableS n).getD (2 * (g.toNat / 32) + g.toNat % 2) []).getD (g.toNat / 2 % 16) 0

/-- `o` is the eight boxes on the eight groups of `x`, group and nibble 1 leftmost (R143). -/
def IsSboxes (x : RoundKey) (o : Half) : Prop :=
  ∀ n, 1 ≤ n → n ≤ 8 → IsSbox n (x.extractLsb' (48 - 6 * n) 6) (o.extractLsb' (32 - 4 * n) 4)

/-- `o = f(rk, h)` through the stages e, x and s (R180, R182). -/
def IsRoundF (rk : RoundKey) (h o : Half) : Prop :=
  ∃ (e x : RoundKey) (s : Half), Selects listE h e ∧ x = e ^^^ rk ∧ IsSboxes x s ∧ Selects listP s o

/-- `L` and `R` are the halves of sixteen rounds on the block `x` under the keys `k i`, i = 0..15 (R183). -/
def IsRounds (k : Nat → RoundKey) (x : Word) (L R : Nat → Half) : Prop :=
  Selects listIP x (L 0 ++ R 0) ∧
  ∀ i, i < 16 → L (i + 1) = R i ∧ ∃ o, IsRoundF (k i) (R i) o ∧ R (i + 1) = L i ^^^ o

/-- `y = feistel((k 0, .., k 15), x)` (R183). -/
def IsFeistel (k : Nat → RoundKey) (x y : Word) : Prop :=
  ∃ L R : Nat → Half, IsRounds k x L R ∧ Selects listFP (R 16 ++ L 16) y

/-- The round keys of a file in the order 1..16. -/
def forward (K : Vector RoundKey 16) (i : Nat) : RoundKey := K.toList.getD i 0

/-- The round keys of a file in the order 16..1. -/
def backward (K : Vector RoundKey 16) (i : Nat) : RoundKey := K.toList.getD (15 - i) 0

/-- `C` and `D` are the sub-halves of the derivation from `key` (R164). -/
def IsSubHalves (key : Word) (C D : Nat → SubHalf) : Prop :=
  Selects listPC1 key (C 0 ++ D 0) ∧
  ∀ i, i < 16 →
    C (i + 1) = (C i).rotateLeft (rotationAmount (i + 1)) ∧ D (i + 1) = (D i).rotateLeft (rotationAmount (i + 1))

/-- `K` is the schedule of `key` (R163). -/
def IsSchedule (key : Word) (K : Vector RoundKey 16) : Prop :=
  ∃ C D : Nat → SubHalf, IsSubHalves key C D ∧
    ∀ i, i < 16 → Selects listPC2 (C (i + 1) ++ D (i + 1)) (forward K i)

/-- A triple that the self-check passes (R197). -/
def TriplePasses (t : KnownAnswer) : Prop :=
  ∀ K, IsSchedule t.key K →
    IsFeistel (forward K) t.plain t.cipher ∧ IsFeistel (backward K) t.cipher t.plain

/-- The command `i` with `a` in the pending record always completes with the result `v`, and changes nothing else. -/
def Yields {m n : Nat} (i : Instr) (a : BitVec m) (v : BitVec n) : Prop :=
  ∀ (s : State) (p : Pending), s.pending = some p → p.a = a.setWidth 64 →
    exec i s = .next (resultState s (v.setWidth 64))

/-- The command `i` with `a` in the pending record always ends in the error `code`, and changes nothing else. -/
def Raises {m : Nat} (i : Instr) (a : BitVec m) (code : ErrCode) : Prop :=
  ∀ (s : State) (p : Pending), s.pending = some p → p.a = a.setWidth 64 →
    exec i s = .next (errorState s p code)

/-- KS with `key` in the pending record always writes the schedule `K` (R163). -/
def KsWrites (key : Word) (K : Vector RoundKey 16) : Prop :=
  ∀ (s : State) (p : Pending), s.pending = some p → p.a = key →
    ∃ d, exec .ks s =
      .next { s with pending := none, busy := false, done := true, ksv := true, rk := K, datapath := d }

/-- `i`, one of ENC and DEC, with `a` in the pending record and the schedule `K` in place always completes with `v`. -/
def CipherYields (i : Instr) (K : Vector RoundKey 16) (a v : Word) : Prop :=
  ∀ (s : State) (p : Pending), s.pending = some p → p.a = a → s.ksv = true → s.rk = K →
    ∃ d, exec i s = .next { resultState s v with datapath := d }

/-- The error codes a command can end in (R211). -/
def codesOf : Instr → List ErrCode
  | .ip => []
  | .fp => []
  | .e => [.width]
  | .einv => [.width, .eMismatch]
  | .p => [.width]
  | .pinv => [.width]
  | .pc1 => []
  | .pc1inv => [.width]
  | .pc2 => [.width]
  | .pc2inv => [.width]
  | .sbox _ => [.sboxIndex, .width]
  | .sboxes => [.width]
  | .lhalf => []
  | .rhalf => []
  | .rotl _ => [.roundIndex, .width]
  | .rotr _ => [.roundIndex, .width]
  | .f => [.width]
  | .ks => []
  | .enc => [.noSchedule]
  | .dec => [.noSchedule]
  | .check => [.selfcheckFail]

/-- A write value that is no command (R75), by its number. -/
def IllegalWord (v : Word) : Prop :=
  v.toNat % 64 = 0 ∨ 0x16 ≤ v.toNat % 64 ∨
  v.toNat / 64 % 4 ≠ 0 ∨ v.toNat / 2 ^ 13 ≠ 0 ∨
  (v.toNat / 256 % 32 ≠ 0 ∧ v.toNat % 64 ∉ [0x0B, 0x0F, 0x10])

/-- Offset `off` reads as `v` in `s`: R51, with the conditions of R39 and R59 under which a value is defined. -/
def ReadsAs (s : State) (off : Nat) (v : Word) : Prop :=
  (off = 0x00 ∧ v = s.cmd) ∨ (off = 0x08 ∧ v = statusWord s) ∨
  (off = 0x10 ∧ s.aWritten = true ∧ v = s.a) ∨ (off = 0x18 ∧ s.bWritten = true ∧ v = s.b) ∨
  (off = 0x20 ∧ s.rWritten = true ∧ s.busy = false ∧ v = s.r) ∨
  (∃ i : Fin 16, off = 0x80 + 8 * i.val ∧ s.ksv = true ∧ s.busy = false ∧ v = s.rk[i].setWidth 64)

/-- Offset `off` reads as any value in `s`: an unmapped slot (R54), an unwritten register (R39), and R and RK while
BUSY = 1 (R59). -/
def ReadsOpen (s : State) (off : Nat) : Prop :=
  (∃ n, 5 ≤ n ∧ n ≤ 15 ∧ off = 8 * n) ∨
  (off = 0x10 ∧ s.aWritten = false) ∨ (off = 0x18 ∧ s.bWritten = false) ∨
  (off = 0x20 ∧ (s.rWritten = false ∨ s.busy = true)) ∨
  (∃ i : Fin 16, off = 0x80 + 8 * i.val ∧ (s.ksv = false ∨ s.busy = true))

/-- An event that the block accepts: one aligned 64-bit access in the window (R52), or no bus access at all. -/
def AcceptedEvent (base : Nat) : Event → Prop
  | .write addr size _ => size = 8 ∧ ∃ n, n < 32 ∧ addr = base + 8 * n
  | .read addr size => size = 8 ∧ ∃ n, n < 32 ∧ addr = base + 8 * n
  | .engine => True
  | .assertReset => True
  | .releaseReset => True

end Sys2Proof.Spec

open Sys2Proof Sys2Proof.Machine Sys2Proof.Spec

/-! ### The machine and its encoding -/

/-- A STEP RUNS THE DECODED COMMAND (R34): where the pending word decodes to `i`, the engine's turn is `exec i`, with the
event that gave it the turn taken from the events to come. With no event to come the engine has the turn by itself (the model's
choice, assumption log 5). -/
def Obligations.EngineTurnRunsPendingCommand : Prop :=
  ∀ (s : State) (p : Pending) (i : Instr), s.pending = some p → decode p.word = .ok i →
    (∀ rest, s.inbox = .engine :: rest → step s = exec i { s with inbox := rest }) ∧
    (s.inbox = [] → step s = exec i s)

/-- Command words written out in R82 and 95_test_vectors.md decode to their commands. -/
def Obligations.SampleCommandWordsDecode : Prop :=
  decode 0x13 = .ok .enc ∧ decode 0x30B = .ok (.sbox 3) ∧ decode 0x20F = .ok (.rotl 2) ∧
  decode 0x1010 = .ok (.rotr 16) ∧ decode 0x15 = .ok .check ∧ decode 0x1F0B = .ok (.sbox 31)

/-- Decode and encode agree: every well-formed command is what its command word decodes to (R71, R81). -/
def Obligations.DecodeOfEncode : Prop :=
  ∀ i : Instr, i.wellFormed = true → decode (encode i) = .ok i

/-- The other direction (R76): a word that selects a command is that command's own word, so no two words select
one command and no bit of a legal word is dropped. -/
def Obligations.EncodeOfDecode : Prop :=
  ∀ (v : Word) (i : Instr), decode v = .ok i → encode i = v ∧ i.wellFormed = true

/-- R75, by numbers: which write values select a command. -/
def Obligations.LegalWordsExactly : Prop :=
  ∀ v : Word, legal v = true ↔ ¬ IllegalWord v

/-! ### Reset and the invariant -/

/-- R38: the values that reset fixes; A, B, R and RK are unwritten. -/
def Obligations.ResetStateValues : Prop :=
  State.reset.cmd = 0 ∧ statusWord State.reset = 0 ∧ State.reset.pending = none ∧
  State.reset.aWritten = false ∧ State.reset.bWritten = false ∧ State.reset.rWritten = false ∧
  State.reset.ksv = false

/-- The invariant holds right after reset. -/
def Obligations.ResetMeetsInvariant : Prop := State.reset.Inv

/-- Every step keeps the invariant, from every state that meets it. -/
def Obligations.StepKeepsInvariant : Prop :=
  ∀ s t : State, s.Inv → step s = .next t → t.Inv

/-- Asserting reset brings every state to the values of R38, and a pending command is discarded (R240, R241). -/
def Obligations.ResetFromEveryState : Prop :=
  ∀ (s : State) (rest : List Event), s.inbox = .assertReset :: rest →
    ∃ t, step s = .next t ∧ t.cmd = 0 ∧ statusWord t = 0 ∧ t.pending = none ∧
      t.aWritten = false ∧ t.bWritten = false ∧ t.rWritten = false ∧ t.resetLine = true ∧
      t.inbox = rest ∧ t.replies = s.replies ∧ t.params = s.params

/-- R242: once reset is released the block accepts accesses, and the first read of STATUS returns 0. -/
def Obligations.FirstStatusReadAfterReset : Prop :=
  ∀ (s : State) (rest : List Event), s.resetLine = true →
    s.inbox = .releaseReset :: rd s.params.desBase .status :: rest →
    ∃ t, Host.Core.run core 2 s = .next t ∧ t.replies = 0 :: s.replies ∧ t.resetLine = false ∧ t.inbox = rest

/-! ### The permutation network -/

/-- IP and FP (R102 to R105). -/
def Obligations.InitialAndFinalPermutation : Prop :=
  SelectCommand64 .ip 0x01 64 listIP ∧ SelectCommand64 .fp 0x02 64 listFP

/-- E (R106, R107). -/
def Obligations.ExpansionResult : Prop := SelectCommand .e 0x03 32 48 listE

/-- EINV (R108): WIDTH first; then E_MISMATCH where a duplicated pair disagrees; otherwise the 32-bit value of which the
operand is the expansion. -/
def Obligations.ExpansionInverseResult : Prop :=
  decode 0x04 = .ok .einv ∧
  ∀ (s : State) (p : Pending), s.pending = some p →
    (2 ^ 48 ≤ p.a.toNat → exec .einv s = .next (errorState s p .width)) ∧
    (p.a.toNat < 2 ^ 48 →
      (∃ k ∈ listPairs, p.a.getLsbD (48 - k.1) ≠ p.a.getLsbD (48 - k.2)) →
        exec .einv s = .next (errorState s p .eMismatch)) ∧
    (p.a.toNat < 2 ^ 48 →
      (∀ k ∈ listPairs, p.a.getLsbD (48 - k.1) = p.a.getLsbD (48 - k.2)) →
        ∃ v : Half, Selects listE v (p.a.setWidth 48) ∧
          exec .einv s = .next (resultState s (v.setWidth 64)))

/-- P and PINV (R109 to R112). -/
def Obligations.PPermutationResults : Prop :=
  SelectCommand .p 0x05 32 32 listP ∧ SelectCommand .pinv 0x06 32 32 listPINV

/-- PC1 (R113, R114). -/
def Obligations.Pc1Result : Prop := SelectCommand64 .pc1 0x07 56 listPC1

/-- PC1INV (R115, R116): every selected bit is back in its place, and every byte has odd parity. -/
def Obligations.Pc1InverseResult : Prop :=
  decode 0x08 = .ok .pc1inv ∧
  ∀ (s : State) (p : Pending), s.pending = some p →
    (2 ^ 56 ≤ p.a.toNat → exec .pc1inv s = .next (errorState s p .width)) ∧
    (p.a.toNat < 2 ^ 56 →
      ∃ v : Word, Selects listPC1 v (p.a.setWidth 56) ∧
        (∀ n, n < 8 →
          ((List.range 8).foldl (fun acc k => acc + (v.getLsbD (8 * n + k)).toNat) 0) % 2 = 1) ∧
        exec .pc1inv s = .next (resultState s v))

/-- PC2 (R117, R118). -/
def Obligations.Pc2Result : Prop := SelectCommand .pc2 0x09 56 48 listPC2

/-- PC2INV (R119): every selected bit is back in its place, and the eight unselected bits are 0. -/
def Obligations.Pc2InverseResult : Prop :=
  decode 0x0A = .ok .pc2inv ∧
  ∀ (s : State) (p : Pending), s.pending = some p →
    (2 ^ 48 ≤ p.a.toNat → exec .pc2inv s = .next (errorState s p .width)) ∧
    (p.a.toNat < 2 ^ 48 →
      ∃ v : KeyState, Selects listPC2 v (p.a.setWidth 48) ∧
        (∀ j ∈ [9, 18, 22, 25, 35, 38, 43, 54], v.getLsbD (56 - j) = false) ∧
        exec .pc2inv s = .next (resultState s (v.setWidth 64)))

/-- The laws of R121, each as commands run one after the other. -/
def Obligations.PermutationLaws : Prop :=
  (∀ x : Word, ∃ y : Word, Yields .fp x y ∧ Yields .ip y x) ∧
  (∀ x : Word, ∃ y : Word, Yields .ip x y ∧ Yields .fp y x) ∧
  (∀ x : Half, ∃ y : Half, Yields .pinv x y ∧ Yields .p y x) ∧
  (∀ x : Half, ∃ y : Half, Yields .p x y ∧ Yields .pinv y x) ∧
  (∀ x : Half, ∃ y : RoundKey, Yields .e x y ∧ Yields .einv y x ∧
    ∀ k ∈ listPairs, Raises .einv (y ^^^ BitVec.twoPow 48 (48 - k.1)) .eMismatch ∧
      Raises .einv (y ^^^ BitVec.twoPow 48 (48 - k.2)) .eMismatch) ∧
  (∀ y : KeyState, ∃ k : Word, Yields .pc1inv y k ∧ Yields .pc1 k y) ∧
  (∀ k : RoundKey, ∃ y : KeyState, Yields .pc2inv k y ∧ Yields .pc2 y k) ∧
  (∀ m, m < 64 → ∃ n n', n < 64 ∧ n' < 64 ∧
    Yields .ip (BitVec.twoPow 64 m) (BitVec.twoPow 64 n) ∧
    Yields .fp (BitVec.twoPow 64 m) (BitVec.twoPow 64 n')) ∧
  (∀ m, m < 32 → ∃ n n', n < 32 ∧ n' < 32 ∧
    Yields .p (BitVec.twoPow 32 m) (BitVec.twoPow 32 n) ∧
    Yields .pinv (BitVec.twoPow 32 m) (BitVec.twoPow 32 n'))

/-! ### S-boxes and halves -/

/-- SBOX (R142): SBOX_INDEX first, whatever the operand; then WIDTH; otherwise the entry of box `idx`. -/
def Obligations.SingleSboxResult : Prop :=
  (∀ idx, idx < 32 → decode (BitVec.ofNat 64 (idx * 256 + 0x0B)) = .ok (.sbox idx)) ∧
  ∀ (s : State) (p : Pending) (idx : Nat), s.pending = some p →
    ((idx < 1 ∨ 8 < idx) → exec (.sbox idx) s = .next (errorState s p .sboxIndex)) ∧
    (1 ≤ idx → idx ≤ 8 → 64 ≤ p.a.toNat → exec (.sbox idx) s = .next (errorState s p .width)) ∧
    (1 ≤ idx → idx ≤ 8 → p.a.toNat < 64 →
      ∃ v : BitVec 4, IsSbox idx (p.a.setWidth 6) v ∧
        exec (.sbox idx) s = .next (resultState s (v.setWidth 64)))

/-- SBOXES (R143, R146): nibble n of the result is box n on group n, and nothing else. -/
def Obligations.AllSboxesResult : Prop :=
  decode 0x0C = .ok .sboxes ∧
  ∀ (s : State) (p : Pending), s.pending = some p →
    (2 ^ 48 ≤ p.a.toNat → exec .sboxes s = .next (errorState s p .width)) ∧
    (p.a.toNat < 2 ^ 48 →
      ∃ v : Half, IsSboxes (p.a.setWidth 48) v ∧
        exec .sboxes s = .next (resultState s (v.setWidth 64)))

/-- LHALF and RHALF (R144, R145), and together they are the operand. -/
def Obligations.HalfExtractionResults : Prop :=
  decode 0x0D = .ok .lhalf ∧ decode 0x0E = .ok .rhalf ∧
  ∀ a : Word, ∃ l r : Word, Yields .lhalf a l ∧ Yields .rhalf a r ∧
    l.toNat = a.toNat / 2 ^ 32 ∧ r.toNat = a.toNat % 2 ^ 32 ∧ (l <<< 32) ||| r = a

/-! ### Key schedule -/

/-- ROTL and ROTR (R160 to R162): ROUND_INDEX first, whatever the operand; then WIDTH; otherwise each sub-half rotates on its
own by the amount of the round. -/
def Obligations.RotationResults : Prop :=
  (∀ idx, idx < 32 → decode (BitVec.ofNat 64 (idx * 256 + 0x0F)) = .ok (.rotl idx) ∧
    decode (BitVec.ofNat 64 (idx * 256 + 0x10)) = .ok (.rotr idx)) ∧
  ∀ (s : State) (p : Pending) (idx : Nat), s.pending = some p →
    ((idx < 1 ∨ 16 < idx) → exec (.rotl idx) s = .next (errorState s p .roundIndex) ∧
      exec (.rotr idx) s = .next (errorState s p .roundIndex)) ∧
    (1 ≤ idx → idx ≤ 16 → 2 ^ 56 ≤ p.a.toNat → exec (.rotl idx) s = .next (errorState s p .width) ∧
      exec (.rotr idx) s = .next (errorState s p .width)) ∧
    (1 ≤ idx → idx ≤ 16 → p.a.toNat < 2 ^ 56 →
      exec (.rotl idx) s = .next (resultState s
        (((p.a.extractLsb' 28 28).rotateLeft (rotationAmount idx) ++
          (p.a.extractLsb' 0 28).rotateLeft (rotationAmount idx)).setWidth 64)) ∧
      exec (.rotr idx) s = .next (resultState s
        (((p.a.extractLsb' 28 28).rotateRight (rotationAmount idx) ++
          (p.a.extractLsb' 0 28).rotateRight (rotationAmount idx)).setWidth 64)))

/-- ROTR undoes ROTL and ROTL undoes ROTR, in every round (R162). -/
def Obligations.RotationsAreInverse : Prop :=
  ∀ idx, 1 ≤ idx → idx ≤ 16 → ∀ y : KeyState,
    (∃ z : KeyState, Yields (.rotl idx) y z ∧ Yields (.rotr idx) z y) ∧
    (∃ z : KeyState, Yields (.rotr idx) y z ∧ Yields (.rotl idx) z y)

/-- KS (R163): it never fails, and writes the whole round-key file and KSV; R is as before. -/
def Obligations.KeyScheduleResult : Prop :=
  decode 0x12 = .ok .ks ∧ ∀ key : Word, ∃ K, IsSchedule key K ∧ KsWrites key K

/-- The laws of the key schedule (R164, R165): the schedule can be rebuilt with PC1, ROTL and PC2, and backwards with
ROTR; the last state is the first; and the eight parity bits of the key do not matter. -/
def Obligations.KeyScheduleLaws : Prop :=
  (∀ key : Word, ∃ (K : Vector RoundKey 16) (y : Nat → KeyState),
    KsWrites key K ∧ Yields .pc1 key (y 0) ∧ y 16 = y 0 ∧
    ∀ i, i < 16 → Yields (.rotl (i + 1)) (y i) (y (i + 1)) ∧ Yields (.rotr (i + 1)) (y (i + 1)) (y i) ∧
      Yields .pc2 (y (i + 1)) (forward K i)) ∧
  (∀ key key' : Word, key &&& 0xFEFEFEFEFEFEFEFE = key' &&& 0xFEFEFEFEFEFEFEFE →
    ∃ K, KsWrites key K ∧ KsWrites key' K)

/-! ### Round function and cipher -/

/-- F (R180 to R182): both operands are checked; the result is P of the S-boxes of E of the half, exclusive-or the key. -/
def Obligations.RoundFunctionResult : Prop :=
  decode 0x11 = .ok .f ∧
  ∀ (s : State) (p : Pending), s.pending = some p →
    ((2 ^ 48 ≤ p.a.toNat ∨ 2 ^ 32 ≤ p.b.toNat) → exec .f s = .next (errorState s p .width)) ∧
    (p.a.toNat < 2 ^ 48 → p.b.toNat < 2 ^ 32 →
      ∃ (v : Half) (d : Datapath), IsRoundF (p.a.setWidth 48) (p.b.setWidth 32) v ∧
        exec .f s = .next { resultState s (v.setWidth 64) with datapath := d })

/-- ENC (R183, R184): NO_SCHEDULE without a schedule; otherwise sixteen rounds under the keys 1..16, with the halves swapped
before FP. -/
def Obligations.EncipherResult : Prop :=
  decode 0x13 = .ok .enc ∧
  ∀ (s : State) (p : Pending), s.pending = some p →
    (s.ksv = false → exec .enc s = .next (errorState s p .noSchedule)) ∧
    (s.ksv = true → ∃ (c : Word) (d : Datapath), IsFeistel (forward s.rk) p.a c ∧
      exec .enc s = .next { resultState s c with datapath := d })

/-- DEC (R183, R185): as ENC, with the keys in the order 16..1. -/
def Obligations.DecipherResult : Prop :=
  decode 0x14 = .ok .dec ∧
  ∀ (s : State) (p : Pending), s.pending = some p →
    (s.ksv = false → exec .dec s = .next (errorState s p .noSchedule)) ∧
    (s.ksv = true → ∃ (c : Word) (d : Datapath), IsFeistel (backward s.rk) p.a c ∧
      exec .dec s = .next { resultState s c with datapath := d })

/-- R186, both ways round: after KS(k), DEC(ENC(x)) = x and ENC(DEC(x)) = x, for every key and every block. -/
def Obligations.DecipherUndoesEncipher : Prop :=
  ∀ key x : Word, ∃ (K : Vector RoundKey 16) (c c' : Word), KsWrites key K ∧
    CipherYields .enc K x c ∧ CipherYields .dec K c x ∧
    CipherYields .dec K x c' ∧ CipherYields .enc K c' x

/-- Complementation (R184): ENC of the complement under the complemented key is the complement of ENC. -/
def Obligations.EncipherComplement : Prop :=
  ∀ key x : Word, ∃ (K K' : Vector RoundKey 16) (c : Word), KsWrites key K ∧ KsWrites (~~~key) K' ∧
    CipherYields .enc K x c ∧ CipherYields .enc K' (~~~x) (~~~c)

/-- R187: IP of a ciphertext is `R_16 ++ L_16`, so `L_15` is LHALF(IP(c)) exclusive-or f of K_16 and RHALF(IP(c)). -/
def Obligations.PreOutputGivesRound15 : Prop :=
  ∀ (s : State) (p : Pending), s.pending = some p → s.ksv = true →
    ∃ (L R : Nat → Half) (c : Word) (d : Datapath) (o : Half),
      IsRounds (forward s.rk) p.a L R ∧
      exec .enc s = .next { resultState s c with datapath := d } ∧
      Selects listIP c (R 16 ++ L 16) ∧ L 16 = R 15 ∧
      IsRoundF (forward s.rk 15) (R 15) o ∧ L 15 = R 16 ^^^ o

/-- The box that feeds DES bit t = 1..32 of f (the table of R188). -/
def Sys2Proof.Spec.boxOfBit : List Nat :=
  [4, 2, 5, 6, 8, 3, 7, 5, 1, 4, 6, 7, 2, 5, 8, 3, 1, 2, 6, 4, 8, 7, 1, 3, 5, 4, 8, 2, 6, 3, 1, 7]

/-- R188: DES bit t of F's result depends on the round key only through the six bits of the box that feeds it. -/
def Obligations.RoundFunctionBitLocality : Prop :=
  ∀ (s : State) (w h : Word) (rk rk' : RoundKey) (t : Nat), h.toNat < 2 ^ 32 → 1 ≤ t → t ≤ 32 →
    rk.extractLsb' (48 - 6 * boxOfBit.getD (t - 1) 0) 6 = rk'.extractLsb' (48 - 6 * boxOfBit.getD (t - 1) 0) 6 →
    ∃ u u' : State,
      exec .f { s with pending := some ⟨w, rk.setWidth 64, h⟩ } = .next u ∧
      exec .f { s with pending := some ⟨w, rk'.setWidth 64, h⟩ } = .next u' ∧
      u.r.getLsbD (32 - t) = u'.r.getLsbD (32 - t)

/-- CHECK (R197): CHKD always; CHKP and DONE where every triple passes in both directions; SELFCHECK_FAIL where one does not.
A, B, R, RK and KSV are as before. -/
def Obligations.SelfCheckResult : Prop :=
  decode 0x15 = .ok .check ∧
  ∀ (s : State) (p : Pending), s.pending = some p →
    ((∀ t ∈ s.params.selfcheckSet, TriplePasses t) →
      ∃ d, exec .check s = .next { s with pending := none, busy := false, done := true, chkd := true, chkp := true, datapath := d }) ∧
    ((∃ t ∈ s.params.selfcheckSet, ¬ TriplePasses t) →
      exec .check s = .next { errorState s p .selfcheckFail with chkd := true, chkp := false })

/-- Every triple of the default set (R196) passes, so CHECK right after reset ends with STATUS = 0x32 (R197). -/
def Obligations.DefaultSelfCheckPasses : Prop :=
  ∀ (s : State) (p : Pending), s.pending = some p →
    s.params.selfcheckSet =
      [⟨0x133457799BBCDFF1, 0x0123456789ABCDEF, 0x85E813540F0AB405⟩,
       ⟨0x0E329232EA6D0D73, 0x8787878787878787, 0x0000000000000000⟩,
       ⟨0x0123456789ABCDEF, 0x4E6F772069732074, 0x3FA40E8A984D4815⟩,
       ⟨0x0000000000000000, 0x0000000000000000, 0x8CA64DE9C1B123A7⟩,
       ⟨0xFFFFFFFFFFFFFFFF, 0xFFFFFFFFFFFFFFFF, 0x7359B2163E4EDC58⟩] →
    ∃ d, exec .check s = .next { s with pending := none, busy := false, done := true, chkd := true, chkp := true, datapath := d }

/-! ### What commands leave alone -/

/-- A command that ends in an error raises one of its own codes (R211), records its OPC (R212), and leaves all the rest
of the state as it was (R214, R217), but for CHECK's report. -/
def Obligations.ErrorsArePrecise : Prop :=
  ∀ (i : Instr) (s : State) (p : Pending) (t : State),
    s.pending = some p → s.err = false → exec i s = .next t → t.err = true →
    ∃ code ∈ codesOf i,
      t = if i = .check then { errorState s p code with chkd := true, chkp := false } else errorState s p code

/-- A command that ends without error sets DONE and consumes the pending record, and each register is written by its own
commands only (the Complete column of R36): RK and KSV by KS, CHKD and CHKP by CHECK, R by neither; and no command writes CMD,
A, B, the parameters, the reset input or what the host has seen. That the datapath keeps its values between the commands of
R33 is the model's choice (assumption log 8). -/
def Obligations.CommandFrame : Prop :=
  ∀ (i : Instr) (s : State) (p : Pending) (t : State), s.pending = some p → exec i s = .next t →
    t.pending = none ∧ t.busy = false ∧ (t.err = s.err ∧ t.done = true ∨ t.err = true ∧ t.done = false) ∧
    t.cmd = s.cmd ∧ t.a = s.a ∧ t.b = s.b ∧ t.aWritten = s.aWritten ∧ t.bWritten = s.bWritten ∧
    t.params = s.params ∧ t.resetLine = s.resetLine ∧ t.uninitOperand = s.uninitOperand ∧
    t.inbox = s.inbox ∧ t.replies = s.replies ∧ t.draws = s.draws ∧
    (i ≠ .ks → t.rk = s.rk ∧ t.ksv = s.ksv) ∧
    (i ≠ .check → t.chkd = s.chkd ∧ t.chkp = s.chkp) ∧
    (i = .ks ∨ i = .check → t.r = s.r ∧ t.rWritten = s.rWritten) ∧
    (i ∉ [.f, .ks, .enc, .dec, .check] → t.datapath = s.datapath)

/-- R62: a command is performed on the operands of its record, whatever A and B hold by then. -/
def Obligations.IssuedOperandsAreFixed : Prop :=
  ∀ (i : Instr) (s t : State) (x y : Word), exec i s = .next t →
    exec i { s with a := x, b := y } = .next { t with a := x, b := y }

/-- Only F reads B (R23), and CHECK reads neither operand (R197). -/
def Obligations.OnlyFReadsSecondOperand : Prop :=
  ∀ (i : Instr) (s : State) (w a a' b b' : Word),
    (i ≠ .f → exec i { s with pending := some ⟨w, a, b⟩ } = exec i { s with pending := some ⟨w, a, b'⟩ }) ∧
    (exec .check { s with pending := some ⟨w, a, b⟩ } = exec .check { s with pending := some ⟨w, a', b'⟩ })

/-! ### The register window -/

/-- STATUS (R26): every field at its place, and 0 in every reserved bit. -/
def Obligations.StatusWordLayout : Prop :=
  ∀ s : State,
    (statusWord s).getLsbD 0 = s.busy ∧ (statusWord s).getLsbD 1 = s.done ∧
    (statusWord s).getLsbD 2 = s.err ∧ (statusWord s).getLsbD 3 = s.ksv ∧
    (statusWord s).getLsbD 4 = s.chkd ∧ (statusWord s).getLsbD 5 = s.chkp ∧
    (statusWord s).extractLsb' 6 2 = 0 ∧
    ((statusWord s).extractLsb' 8 4).toNat =
      (match s.errcode with
        | .none => 0 | .busyViolation => 1 | .illegalCmd => 2 | .sboxIndex => 3 | .roundIndex => 4
        | .noSchedule => 5 | .width => 6 | .eMismatch => 7 | .selfcheckFail => 8) ∧
    (statusWord s).extractLsb' 12 4 = 0 ∧ (statusWord s).extractLsb' 16 6 = s.erropc ∧
    (statusWord s).extractLsb' 22 42 = 0

/-- The issue of a legal word on an idle block without error, its operands written (R34): CMD reads the word, DONE is cleared, and
the record holds the word and the operands. -/
def Obligations.LegalWordIssues : Prop :=
  ∀ (s : State) (v : Word) (i : Instr) (rest : List Event),
    s.inbox = .write s.params.desBase 8 v :: rest → s.ready = true → decode v = .ok i →
    (i ≠ .check → s.aWritten = true) → (i = .f → s.bWritten = true) →
    ∃ (q : Pending) (d : Nat), q.word = v ∧ (s.aWritten = true → q.a = s.a) ∧ (s.bWritten = true → q.b = s.b) ∧
      step s = .next { s with
        inbox := rest, cmd := v, done := false, busy := true, pending := some q, draws := d }

/-- An illegal word raises ILLEGAL_CMD at once (R75), with bits 5:0 of the word as ERROPC (R212); CMD reads the word (R25). -/
def Obligations.IllegalWordRaises : Prop :=
  ∀ (s : State) (v : Word) (rest : List Event),
    s.inbox = .write s.params.desBase 8 v :: rest → s.ready = true → IllegalWord v →
    step s = .next { s with
      inbox := rest, cmd := v, done := false, err := true, errcode := .illegalCmd, erropc := v.extractLsb' 0 6 }

/-- The busy violation (R213): a write to CMD, A or B while BUSY = 1 discards the pending command and the write; a read
is no violation. -/
def Obligations.BusyViolationDiscards : Prop :=
  (∀ (s : State) (p : Pending) (off : Nat) (v : Word) (rest : List Event),
    s.inbox = .write (s.params.desBase + off) 8 v :: rest → s.resetLine = false →
    s.busy = true → s.pending = some p → off ∈ [0x00, 0x10, 0x18] →
    step s = .next { errorState s p .busyViolation with inbox := rest }) ∧
  (∀ (s : State) (n : Nat) (rest : List Event),
    s.inbox = .read (s.params.desBase + 8 * n) 8 :: rest → n < 32 → s.busy = true →
    ∃ t, step s = .next t ∧ t.busy = true ∧ t.err = s.err ∧ t.errcode = s.errcode ∧ t.erropc = s.erropc ∧
      t.pending = s.pending)

/-- Writes to A and B while BUSY = 0 are stored, in the error state too (R22, R23, R36, R215). -/
def Obligations.OperandWritesAreStored : Prop :=
  ∀ (s : State) (v : Word) (rest : List Event), s.resetLine = false → s.busy = false →
    (s.inbox = .write (s.params.desBase + 0x10) 8 v :: rest →
      step s = .next { s with inbox := rest, a := v, aWritten := true }) ∧
    (s.inbox = .write (s.params.desBase + 0x18) 8 v :: rest →
      step s = .next { s with inbox := rest, b := v, bWritten := true })

/-- In the error state a write to CMD has no effect at all (R215). -/
def Obligations.ErrorStateIgnoresCommands : Prop :=
  ∀ (s : State) (v : Word) (rest : List Event),
    s.inbox = .write s.params.desBase 8 v :: rest → s.busy = false → s.err = true →
    step s = .next { s with inbox := rest }

/-- Writes to STATUS, R and RK (R55) and to unmapped offsets (R54) are ignored, also while BUSY = 1. -/
def Obligations.ReadOnlyWritesAreIgnored : Prop :=
  ∀ (s : State) (n : Nat) (v : Word) (rest : List Event),
    s.inbox = .write (s.params.desBase + 8 * n) 8 v :: rest →
    n = 1 ∨ (4 ≤ n ∧ n ≤ 31) → step s = .next { s with inbox := rest }

/-- Reads of a register with a value return that value (R22 to R25, R32, R51). -/
def Obligations.ReadsReturnRegisters : Prop :=
  ∀ (s : State) (off : Nat) (v : Word) (rest : List Event),
    s.inbox = .read (s.params.desBase + off) 8 :: rest → s.resetLine = false → ReadsAs s off v →
    step s = .next { s with inbox := rest, replies := v :: s.replies }

/-- Reads that the spec leaves open return any value (R39, R54, R59): a fresh draw each (the model's form of a free value,
assumption log 3). -/
def Obligations.OpenReadsReturnDraws : Prop :=
  ∀ (s : State) (off : Nat) (rest : List Event),
    s.inbox = .read (s.params.desBase + off) 8 :: rest → s.resetLine = false → ReadsOpen s off →
    step s = .next { s with
      inbox := rest, replies := Config.draw s.draws :: s.replies, draws := s.draws + 1 }

/-- Reads have no side effect on the block (R57), whatever the address, the size and the state. -/
def Obligations.ReadsHaveNoSideEffect : Prop :=
  ∀ (s t : State) (addr size : Nat) (rest : List Event),
    s.inbox = .read addr size :: rest → step s = .next t →
    ∃ v d, t = { s with inbox := rest, replies := v :: s.replies, draws := d }

/-- An access to the window that is narrower than 64 bits, or not 8-aligned, is refused (R53). That a wider one, or one
of size 0, is refused too is the model's choice (assumption log 15). -/
def Obligations.NarrowOrMisalignedIsRefused : Prop :=
  ∀ (s : State) (off size : Nat) (v : Word) (rest : List Event), off < 256 → (size ≠ 8 ∨ off % 8 ≠ 0) →
    (s.inbox = .read (s.params.desBase + off) size :: rest →
      step s = .refused (.refusedAccess (s.params.desBase + off) size)) ∧
    (s.inbox = .write (s.params.desBase + off) size v :: rest →
      step s = .refused (.refusedAccess (s.params.desBase + off) size))

/-- The window is the block's only address space (R50): an access that starts outside it faults. The fault is the model's choice
(assumption log 11), and so is that the start address alone decides (log 17). -/
def Obligations.AccessOutsideWindowFaults : Prop :=
  ∀ (s : State) (addr size : Nat) (v : Word) (rest : List Event),
    (addr < s.params.desBase ∨ s.params.desBase + 256 ≤ addr) →
    (s.inbox = .read addr size :: rest → step s = .fault (.outsideWindow addr)) ∧
    (s.inbox = .write addr size v :: rest → step s = .fault (.outsideWindow addr))

/-- A command that takes an unwritten operand is issued all the same, and is recorded as UNINIT_OPERAND. R39 calls this a model
fault; that the run goes on is the model's choice (assumption log 4). -/
def Obligations.UnwrittenOperandIsRecorded : Prop :=
  ∀ (s : State) (v : Word) (i : Instr) (rest : List Event),
    s.inbox = .write s.params.desBase 8 v :: rest → s.ready = true → decode v = .ok i →
    (i ≠ .check ∧ s.aWritten = false ∨ i = .f ∧ s.bWritten = false) →
    ∃ (q : Pending) (d : Nat), q.word = v ∧
      step s = .next { s with
        inbox := rest, cmd := v, done := false, busy := true, pending := some q, draws := d, uninitOperand := true }

/-! ### Whole-machine rules -/

/-- Only a host write of a legal word to CMD makes a command pending (R34, R57). -/
def Obligations.OnlyCmdWriteIssues : Prop :=
  ∀ (s t : State) (q : Pending), s.pending = none → step s = .next t → t.pending = some q →
    ∃ rest, s.inbox = .write s.params.desBase 8 q.word :: rest ∧ legal q.word = true ∧
      t.cmd = q.word ∧ t.busy = true

/-- The error state is left by reset only, and until then the first error's record stays (R215, R218). -/
def Obligations.ErrorIsStickyUntilReset : Prop :=
  ∀ s t : State, s.Inv → s.err = true → step s = .next t →
    (t.err = true ∧ t.errcode = s.errcode ∧ t.erropc = s.erropc ∧ t.pending = none ∧
      ∀ rest, s.inbox ≠ .assertReset :: rest) ∨
    (t.err = false ∧ ∃ rest, s.inbox = .assertReset :: rest)

/-- The round-key file changes only when a KS completes (R63) or at reset. -/
def Obligations.OnlyKsWritesRoundKeys : Prop :=
  ∀ s t : State, s.Inv → step s = .next t → (t.rk ≠ s.rk ∨ t.ksv ≠ s.ksv) →
    (∃ rest, s.inbox = .assertReset :: rest) ∨ (s.resetLine = true ∧ ∃ rest, s.inbox = .releaseReset :: rest) ∨
    (∃ p, s.pending = some p ∧ p.word = 0x12 ∧ (s.inbox = [] ∨ ∃ rest, s.inbox = .engine :: rest) ∧
      KsWrites p.a t.rk ∧ t.ksv = true)

/-- Progress (R251): from a state that meets the invariant, events that the block accepts all happen, and then no command is
pending any more. That runs go through rests on three choices of the model: the engine has its turn once no event
is left (assumption log 5), a command on an unwritten operand is issued and the run goes on (log 4; R221: a claim about a run's
results asks for `State.clean`, and this one claims no result), and accesses while reset is asserted are served (log 9). -/
def Obligations.EveryCommandCompletes : Prop :=
  ∀ s : State, s.Inv → (∀ ev ∈ s.inbox, AcceptedEvent s.params.desBase ev) →
    ∃ t, Host.Core.run core (s.inbox.length + 1) s = .next t ∧
      t.inbox = [] ∧ t.pending = none ∧ t.busy = false ∧ t.Inv

/-- The WAIT loop ends (R61, R80, R251): after `WR A` and `RUN`, however often STATUS is read too early, the last read of STATUS shows
BUSY = 0 and how the command ended, and every earlier one shows BUSY = 1. For F on a B that nothing has written, that the run
goes on is the model's choice (assumption log 4). -/
def Obligations.WaitLoopEnds : Prop :=
  ∀ (s : State) (i : Instr) (a : Word) (polls : Nat) (rest : List Event),
    i.wellFormed = true → s.ready = true →
    s.inbox = wr s.params.desBase .a a :: (runEvents s.params.desBase polls i ++ rest) →
    ∃ (t : State) (early : List Word), Host.Core.run core (polls + 4) s = .next t ∧
      t.inbox = rest ∧ t.pending = none ∧ t.cmd = encode i ∧
      t.replies = statusWord t :: (early ++ s.replies) ∧ early.length = polls ∧
      (∀ v ∈ early, v.getLsbD 0 = true ∧ v.getLsbD 1 = false ∧ v.getLsbD 2 = false) ∧
      (statusWord t).getLsbD 0 = false ∧
      ((statusWord t).getLsbD 1 = true ∨ (statusWord t).getLsbD 2 = true)
end

