-- ==== Sys2Proof/Laws/Bits.lean ====
section
/-! SUPPORT. DES positions and table selection: `select` is cited through `select_getLsbD` or `dbit_select`, never unfolded. -/

namespace Sys2Proof.Machine

theorem dbit_eq_getLsbD {W : Nat} (v : BitVec W) (i : Nat) : dbit v i = v.getLsbD (W - i) := rfl

@[simp] theorem dbit_zero {W : Nat} (v : BitVec W) : dbit v 0 = false := by
  simp [dbit]

/-- Two values are equal when their DES bits are. -/
theorem eq_of_dbit_eq {W : Nat} {u v : BitVec W}
    (h : ∀ j, 1 ≤ j → j ≤ W → dbit u j = dbit v j) : u = v := by
  apply BitVec.eq_of_getLsbD_eq
  intro k hk
  have hj := h (W - k) (by omega) (by omega)
  have hWk : W - (W - k) = k := by omega
  simpa [dbit, hWk] using hj

/-- The number built from bits, first bit most significant: its bit k is the k-th bit from the end. -/
theorem testBit_foldl_bits (bits : List Bool) (acc k : Nat) :
    (bits.foldl (fun n bit => 2 * n + bit.toNat) acc).testBit k =
      if k < bits.length then bits.reverse.getD k false else acc.testBit (k - bits.length) := by
  induction bits generalizing acc with
  | nil => simp
  | cons b bs ih =>
    rw [List.foldl_cons, ih]
    rcases Nat.lt_trichotomy k bs.length with h | h | h
    · have h2 : k < (b :: bs).length := by simp; omega
      simp only [if_pos h, if_pos h2]
      simp [List.getD_eq_getElem?_getD, List.getElem?_append_left, h]
    · subst h
      have h2 : bs.length < (b :: bs).length := by simp
      cases b <;> simp [List.getD_eq_getElem?_getD, Nat.testBit_zero]
    · have h1 : ¬ k < bs.length := by omega
      have h2 : ¬ k < (b :: bs).length := by simp; omega
      have h3 : k - bs.length = (k - (b :: bs).length) + 1 := by simp; omega
      simp only [if_neg h1, if_neg h2, h3, Nat.testBit_succ]
      congr 1
      cases b with
      | false => simp
      | true => simp; omega

/-- The DES bits of a value built from `n` bits are those bits in turn. -/
theorem ofDesBits_getLsbD {n : Nat} (bits : List Bool) (hlen : bits.length = n) (k : Nat) (hk : k < n) :
    (ofDesBits n bits).getLsbD k = bits.getD (n - 1 - k) false := by
  subst hlen
  simp only [ofDesBits, BitVec.getLsbD_ofNat, hk, decide_true, Bool.true_and, testBit_foldl_bits,
    if_true, List.getD_eq_getElem?_getD]
  rw [List.getElem?_reverse hk]

/-- `select` bit by bit, in integer positions (R12). -/
theorem select_getLsbD {W n : Nat} (T : List Nat) (v : BitVec W) (hlen : T.length = n) (k : Nat) (hk : k < n) :
    (select n T v).getLsbD k = v.getLsbD (W - T.getD (n - 1 - k) 0) := by
  rw [select, ofDesBits_getLsbD _ (by simpa using hlen) k hk]
  have hin : n - 1 - k < T.length := by omega
  simp [List.getD_eq_getElem?_getD, hin, dbit]

/-- `select` bit by bit, in DES positions: DES bit j is DES bit `T[j]` of the input (R12). -/
theorem dbit_select {W n : Nat} (T : List Nat) (v : BitVec W) (hlen : T.length = n) (j : Nat)
    (h1 : 1 ≤ j) (hn : j ≤ n) : dbit (select n T v) j = dbit v (T.getD (j - 1) 0) := by
  rw [dbit, select_getLsbD T v hlen (n - j) (by omega), dbit]
  congr 3
  omega

/-- `chk_W` passes exactly when the operand is below `2^W` (R14). -/
theorem fits_iff (W : Nat) (v : Word) : fits W v = true ↔ v.toNat < 2 ^ W := by
  rw [fits, beq_iff_eq, ← BitVec.toNat_inj, BitVec.toNat_ushiftRight, Nat.shiftRight_eq_div_pow]
  simp [Nat.div_eq_zero_iff]

/-- A 64-bit operand passes every width check (R78). -/
@[simp] theorem fits_64 (v : Word) : fits 64 v = true := (fits_iff 64 v).2 v.isLt

end Sys2Proof.Machine
end

