-- ==== Sys2Proof/Laws/State.lean ====
section
/-! SUPPORT. One lemma per field and update of the state: what each named update leaves in each field. -/

namespace Sys2Proof.Machine

/-! ### errorEntry -/

@[simp] theorem errorEntry_params (code : ErrCode) (opc : Opc) (s : State) : (errorEntry code opc s).params = s.params := rfl
@[simp] theorem errorEntry_cmd (code : ErrCode) (opc : Opc) (s : State) : (errorEntry code opc s).cmd = s.cmd := rfl
@[simp] theorem errorEntry_busy (code : ErrCode) (opc : Opc) (s : State) : (errorEntry code opc s).busy = false := rfl
@[simp] theorem errorEntry_done (code : ErrCode) (opc : Opc) (s : State) : (errorEntry code opc s).done = false := rfl
@[simp] theorem errorEntry_err (code : ErrCode) (opc : Opc) (s : State) : (errorEntry code opc s).err = true := rfl
@[simp] theorem errorEntry_ksv (code : ErrCode) (opc : Opc) (s : State) : (errorEntry code opc s).ksv = s.ksv := rfl
@[simp] theorem errorEntry_chkd (code : ErrCode) (opc : Opc) (s : State) : (errorEntry code opc s).chkd = s.chkd := rfl
@[simp] theorem errorEntry_chkp (code : ErrCode) (opc : Opc) (s : State) : (errorEntry code opc s).chkp = s.chkp := rfl
@[simp] theorem errorEntry_errcode (code : ErrCode) (opc : Opc) (s : State) : (errorEntry code opc s).errcode = code := rfl
@[simp] theorem errorEntry_erropc (code : ErrCode) (opc : Opc) (s : State) : (errorEntry code opc s).erropc = opc := rfl
@[simp] theorem errorEntry_a (code : ErrCode) (opc : Opc) (s : State) : (errorEntry code opc s).a = s.a := rfl
@[simp] theorem errorEntry_b (code : ErrCode) (opc : Opc) (s : State) : (errorEntry code opc s).b = s.b := rfl
@[simp] theorem errorEntry_r (code : ErrCode) (opc : Opc) (s : State) : (errorEntry code opc s).r = s.r := rfl
@[simp] theorem errorEntry_rk (code : ErrCode) (opc : Opc) (s : State) : (errorEntry code opc s).rk = s.rk := rfl
@[simp] theorem errorEntry_pending (code : ErrCode) (opc : Opc) (s : State) : (errorEntry code opc s).pending = s.pending := rfl
@[simp] theorem errorEntry_datapath (code : ErrCode) (opc : Opc) (s : State) : (errorEntry code opc s).datapath = s.datapath := rfl
@[simp] theorem errorEntry_resetLine (code : ErrCode) (opc : Opc) (s : State) : (errorEntry code opc s).resetLine = s.resetLine := rfl
@[simp] theorem errorEntry_aWritten (code : ErrCode) (opc : Opc) (s : State) : (errorEntry code opc s).aWritten = s.aWritten := rfl
@[simp] theorem errorEntry_bWritten (code : ErrCode) (opc : Opc) (s : State) : (errorEntry code opc s).bWritten = s.bWritten := rfl
@[simp] theorem errorEntry_rWritten (code : ErrCode) (opc : Opc) (s : State) : (errorEntry code opc s).rWritten = s.rWritten := rfl
@[simp] theorem errorEntry_uninitOperand (code : ErrCode) (opc : Opc) (s : State) : (errorEntry code opc s).uninitOperand = s.uninitOperand := rfl
@[simp] theorem errorEntry_inbox (code : ErrCode) (opc : Opc) (s : State) : (errorEntry code opc s).inbox = s.inbox := rfl
@[simp] theorem errorEntry_replies (code : ErrCode) (opc : Opc) (s : State) : (errorEntry code opc s).replies = s.replies := rfl
@[simp] theorem errorEntry_draws (code : ErrCode) (opc : Opc) (s : State) : (errorEntry code opc s).draws = s.draws := rfl

/-! ### raiseErr -/

@[simp] theorem raiseErr_params (code : ErrCode) (p : Pending) (s : State) : (raiseErr code p s).params = s.params := rfl
@[simp] theorem raiseErr_cmd (code : ErrCode) (p : Pending) (s : State) : (raiseErr code p s).cmd = s.cmd := rfl
@[simp] theorem raiseErr_busy (code : ErrCode) (p : Pending) (s : State) : (raiseErr code p s).busy = false := rfl
@[simp] theorem raiseErr_done (code : ErrCode) (p : Pending) (s : State) : (raiseErr code p s).done = false := rfl
@[simp] theorem raiseErr_err (code : ErrCode) (p : Pending) (s : State) : (raiseErr code p s).err = true := rfl
@[simp] theorem raiseErr_ksv (code : ErrCode) (p : Pending) (s : State) : (raiseErr code p s).ksv = s.ksv := rfl
@[simp] theorem raiseErr_chkd (code : ErrCode) (p : Pending) (s : State) : (raiseErr code p s).chkd = s.chkd := rfl
@[simp] theorem raiseErr_chkp (code : ErrCode) (p : Pending) (s : State) : (raiseErr code p s).chkp = s.chkp := rfl
@[simp] theorem raiseErr_errcode (code : ErrCode) (p : Pending) (s : State) : (raiseErr code p s).errcode = code := rfl
@[simp] theorem raiseErr_erropc (code : ErrCode) (p : Pending) (s : State) : (raiseErr code p s).erropc = pendingOpc p := rfl
@[simp] theorem raiseErr_a (code : ErrCode) (p : Pending) (s : State) : (raiseErr code p s).a = s.a := rfl
@[simp] theorem raiseErr_b (code : ErrCode) (p : Pending) (s : State) : (raiseErr code p s).b = s.b := rfl
@[simp] theorem raiseErr_r (code : ErrCode) (p : Pending) (s : State) : (raiseErr code p s).r = s.r := rfl
@[simp] theorem raiseErr_rk (code : ErrCode) (p : Pending) (s : State) : (raiseErr code p s).rk = s.rk := rfl
@[simp] theorem raiseErr_pending (code : ErrCode) (p : Pending) (s : State) : (raiseErr code p s).pending = s.pending := rfl
@[simp] theorem raiseErr_datapath (code : ErrCode) (p : Pending) (s : State) : (raiseErr code p s).datapath = s.datapath := rfl
@[simp] theorem raiseErr_resetLine (code : ErrCode) (p : Pending) (s : State) : (raiseErr code p s).resetLine = s.resetLine := rfl
@[simp] theorem raiseErr_aWritten (code : ErrCode) (p : Pending) (s : State) : (raiseErr code p s).aWritten = s.aWritten := rfl
@[simp] theorem raiseErr_bWritten (code : ErrCode) (p : Pending) (s : State) : (raiseErr code p s).bWritten = s.bWritten := rfl
@[simp] theorem raiseErr_rWritten (code : ErrCode) (p : Pending) (s : State) : (raiseErr code p s).rWritten = s.rWritten := rfl
@[simp] theorem raiseErr_uninitOperand (code : ErrCode) (p : Pending) (s : State) : (raiseErr code p s).uninitOperand = s.uninitOperand := rfl
@[simp] theorem raiseErr_inbox (code : ErrCode) (p : Pending) (s : State) : (raiseErr code p s).inbox = s.inbox := rfl
@[simp] theorem raiseErr_replies (code : ErrCode) (p : Pending) (s : State) : (raiseErr code p s).replies = s.replies := rfl
@[simp] theorem raiseErr_draws (code : ErrCode) (p : Pending) (s : State) : (raiseErr code p s).draws = s.draws := rfl

/-! ### retire -/

@[simp] theorem retire_params (s : State) : (retire s).params = s.params := rfl
@[simp] theorem retire_cmd (s : State) : (retire s).cmd = s.cmd := rfl
@[simp] theorem retire_busy (s : State) : (retire s).busy = false := rfl
@[simp] theorem retire_done (s : State) : (retire s).done = s.done := rfl
@[simp] theorem retire_err (s : State) : (retire s).err = s.err := rfl
@[simp] theorem retire_ksv (s : State) : (retire s).ksv = s.ksv := rfl
@[simp] theorem retire_chkd (s : State) : (retire s).chkd = s.chkd := rfl
@[simp] theorem retire_chkp (s : State) : (retire s).chkp = s.chkp := rfl
@[simp] theorem retire_errcode (s : State) : (retire s).errcode = s.errcode := rfl
@[simp] theorem retire_erropc (s : State) : (retire s).erropc = s.erropc := rfl
@[simp] theorem retire_a (s : State) : (retire s).a = s.a := rfl
@[simp] theorem retire_b (s : State) : (retire s).b = s.b := rfl
@[simp] theorem retire_r (s : State) : (retire s).r = s.r := rfl
@[simp] theorem retire_rk (s : State) : (retire s).rk = s.rk := rfl
@[simp] theorem retire_pending (s : State) : (retire s).pending = none := rfl
@[simp] theorem retire_datapath (s : State) : (retire s).datapath = s.datapath := rfl
@[simp] theorem retire_resetLine (s : State) : (retire s).resetLine = s.resetLine := rfl
@[simp] theorem retire_aWritten (s : State) : (retire s).aWritten = s.aWritten := rfl
@[simp] theorem retire_bWritten (s : State) : (retire s).bWritten = s.bWritten := rfl
@[simp] theorem retire_rWritten (s : State) : (retire s).rWritten = s.rWritten := rfl
@[simp] theorem retire_uninitOperand (s : State) : (retire s).uninitOperand = s.uninitOperand := rfl
@[simp] theorem retire_inbox (s : State) : (retire s).inbox = s.inbox := rfl
@[simp] theorem retire_replies (s : State) : (retire s).replies = s.replies := rfl
@[simp] theorem retire_draws (s : State) : (retire s).draws = s.draws := rfl

/-! ### writeResult -/

@[simp] theorem writeResult_params {W : Nat} (v : BitVec W) (s : State) : (writeResult v s).params = s.params := rfl
@[simp] theorem writeResult_cmd {W : Nat} (v : BitVec W) (s : State) : (writeResult v s).cmd = s.cmd := rfl
@[simp] theorem writeResult_busy {W : Nat} (v : BitVec W) (s : State) : (writeResult v s).busy = s.busy := rfl
@[simp] theorem writeResult_done {W : Nat} (v : BitVec W) (s : State) : (writeResult v s).done = true := rfl
@[simp] theorem writeResult_err {W : Nat} (v : BitVec W) (s : State) : (writeResult v s).err = s.err := rfl
@[simp] theorem writeResult_ksv {W : Nat} (v : BitVec W) (s : State) : (writeResult v s).ksv = s.ksv := rfl
@[simp] theorem writeResult_chkd {W : Nat} (v : BitVec W) (s : State) : (writeResult v s).chkd = s.chkd := rfl
@[simp] theorem writeResult_chkp {W : Nat} (v : BitVec W) (s : State) : (writeResult v s).chkp = s.chkp := rfl
@[simp] theorem writeResult_errcode {W : Nat} (v : BitVec W) (s : State) : (writeResult v s).errcode = s.errcode := rfl
@[simp] theorem writeResult_erropc {W : Nat} (v : BitVec W) (s : State) : (writeResult v s).erropc = s.erropc := rfl
@[simp] theorem writeResult_a {W : Nat} (v : BitVec W) (s : State) : (writeResult v s).a = s.a := rfl
@[simp] theorem writeResult_b {W : Nat} (v : BitVec W) (s : State) : (writeResult v s).b = s.b := rfl
@[simp] theorem writeResult_r {W : Nat} (v : BitVec W) (s : State) : (writeResult v s).r = zext v := rfl
@[simp] theorem writeResult_rk {W : Nat} (v : BitVec W) (s : State) : (writeResult v s).rk = s.rk := rfl
@[simp] theorem writeResult_pending {W : Nat} (v : BitVec W) (s : State) : (writeResult v s).pending = s.pending := rfl
@[simp] theorem writeResult_datapath {W : Nat} (v : BitVec W) (s : State) : (writeResult v s).datapath = s.datapath := rfl
@[simp] theorem writeResult_resetLine {W : Nat} (v : BitVec W) (s : State) : (writeResult v s).resetLine = s.resetLine := rfl
@[simp] theorem writeResult_aWritten {W : Nat} (v : BitVec W) (s : State) : (writeResult v s).aWritten = s.aWritten := rfl
@[simp] theorem writeResult_bWritten {W : Nat} (v : BitVec W) (s : State) : (writeResult v s).bWritten = s.bWritten := rfl
@[simp] theorem writeResult_rWritten {W : Nat} (v : BitVec W) (s : State) : (writeResult v s).rWritten = true := rfl
@[simp] theorem writeResult_uninitOperand {W : Nat} (v : BitVec W) (s : State) : (writeResult v s).uninitOperand = s.uninitOperand := rfl
@[simp] theorem writeResult_inbox {W : Nat} (v : BitVec W) (s : State) : (writeResult v s).inbox = s.inbox := rfl
@[simp] theorem writeResult_replies {W : Nat} (v : BitVec W) (s : State) : (writeResult v s).replies = s.replies := rfl
@[simp] theorem writeResult_draws {W : Nat} (v : BitVec W) (s : State) : (writeResult v s).draws = s.draws := rfl

/-! ### reply -/

@[simp] theorem reply_params (v : Word) (s : State) : (reply v s).params = s.params := rfl
@[simp] theorem reply_cmd (v : Word) (s : State) : (reply v s).cmd = s.cmd := rfl
@[simp] theorem reply_busy (v : Word) (s : State) : (reply v s).busy = s.busy := rfl
@[simp] theorem reply_done (v : Word) (s : State) : (reply v s).done = s.done := rfl
@[simp] theorem reply_err (v : Word) (s : State) : (reply v s).err = s.err := rfl
@[simp] theorem reply_ksv (v : Word) (s : State) : (reply v s).ksv = s.ksv := rfl
@[simp] theorem reply_chkd (v : Word) (s : State) : (reply v s).chkd = s.chkd := rfl
@[simp] theorem reply_chkp (v : Word) (s : State) : (reply v s).chkp = s.chkp := rfl
@[simp] theorem reply_errcode (v : Word) (s : State) : (reply v s).errcode = s.errcode := rfl
@[simp] theorem reply_erropc (v : Word) (s : State) : (reply v s).erropc = s.erropc := rfl
@[simp] theorem reply_a (v : Word) (s : State) : (reply v s).a = s.a := rfl
@[simp] theorem reply_b (v : Word) (s : State) : (reply v s).b = s.b := rfl
@[simp] theorem reply_r (v : Word) (s : State) : (reply v s).r = s.r := rfl
@[simp] theorem reply_rk (v : Word) (s : State) : (reply v s).rk = s.rk := rfl
@[simp] theorem reply_pending (v : Word) (s : State) : (reply v s).pending = s.pending := rfl
@[simp] theorem reply_datapath (v : Word) (s : State) : (reply v s).datapath = s.datapath := rfl
@[simp] theorem reply_resetLine (v : Word) (s : State) : (reply v s).resetLine = s.resetLine := rfl
@[simp] theorem reply_aWritten (v : Word) (s : State) : (reply v s).aWritten = s.aWritten := rfl
@[simp] theorem reply_bWritten (v : Word) (s : State) : (reply v s).bWritten = s.bWritten := rfl
@[simp] theorem reply_rWritten (v : Word) (s : State) : (reply v s).rWritten = s.rWritten := rfl
@[simp] theorem reply_uninitOperand (v : Word) (s : State) : (reply v s).uninitOperand = s.uninitOperand := rfl
@[simp] theorem reply_inbox (v : Word) (s : State) : (reply v s).inbox = s.inbox := rfl
@[simp] theorem reply_replies (v : Word) (s : State) : (reply v s).replies = v :: s.replies := rfl
@[simp] theorem reply_draws (v : Word) (s : State) : (reply v s).draws = s.draws := rfl

/-! ### replyDraw -/

@[simp] theorem replyDraw_params (s : State) : (replyDraw s).params = s.params := rfl
@[simp] theorem replyDraw_cmd (s : State) : (replyDraw s).cmd = s.cmd := rfl
@[simp] theorem replyDraw_busy (s : State) : (replyDraw s).busy = s.busy := rfl
@[simp] theorem replyDraw_done (s : State) : (replyDraw s).done = s.done := rfl
@[simp] theorem replyDraw_err (s : State) : (replyDraw s).err = s.err := rfl
@[simp] theorem replyDraw_ksv (s : State) : (replyDraw s).ksv = s.ksv := rfl
@[simp] theorem replyDraw_chkd (s : State) : (replyDraw s).chkd = s.chkd := rfl
@[simp] theorem replyDraw_chkp (s : State) : (replyDraw s).chkp = s.chkp := rfl
@[simp] theorem replyDraw_errcode (s : State) : (replyDraw s).errcode = s.errcode := rfl
@[simp] theorem replyDraw_erropc (s : State) : (replyDraw s).erropc = s.erropc := rfl
@[simp] theorem replyDraw_a (s : State) : (replyDraw s).a = s.a := rfl
@[simp] theorem replyDraw_b (s : State) : (replyDraw s).b = s.b := rfl
@[simp] theorem replyDraw_r (s : State) : (replyDraw s).r = s.r := rfl
@[simp] theorem replyDraw_rk (s : State) : (replyDraw s).rk = s.rk := rfl
@[simp] theorem replyDraw_pending (s : State) : (replyDraw s).pending = s.pending := rfl
@[simp] theorem replyDraw_datapath (s : State) : (replyDraw s).datapath = s.datapath := rfl
@[simp] theorem replyDraw_resetLine (s : State) : (replyDraw s).resetLine = s.resetLine := rfl
@[simp] theorem replyDraw_aWritten (s : State) : (replyDraw s).aWritten = s.aWritten := rfl
@[simp] theorem replyDraw_bWritten (s : State) : (replyDraw s).bWritten = s.bWritten := rfl
@[simp] theorem replyDraw_rWritten (s : State) : (replyDraw s).rWritten = s.rWritten := rfl
@[simp] theorem replyDraw_uninitOperand (s : State) : (replyDraw s).uninitOperand = s.uninitOperand := rfl
@[simp] theorem replyDraw_inbox (s : State) : (replyDraw s).inbox = s.inbox := rfl
@[simp] theorem replyDraw_replies (s : State) : (replyDraw s).replies = Config.draw s.draws :: s.replies := rfl
@[simp] theorem replyDraw_draws (s : State) : (replyDraw s).draws = s.draws + 1 := rfl

/-! ### issue -/

@[simp] theorem issue_params (v : Word) (i : Instr) (s : State) : (issue v i s).params = s.params := rfl
@[simp] theorem issue_cmd (v : Word) (i : Instr) (s : State) : (issue v i s).cmd = s.cmd := rfl
@[simp] theorem issue_busy (v : Word) (i : Instr) (s : State) : (issue v i s).busy = true := rfl
@[simp] theorem issue_done (v : Word) (i : Instr) (s : State) : (issue v i s).done = s.done := rfl
@[simp] theorem issue_err (v : Word) (i : Instr) (s : State) : (issue v i s).err = s.err := rfl
@[simp] theorem issue_ksv (v : Word) (i : Instr) (s : State) : (issue v i s).ksv = s.ksv := rfl
@[simp] theorem issue_chkd (v : Word) (i : Instr) (s : State) : (issue v i s).chkd = s.chkd := rfl
@[simp] theorem issue_chkp (v : Word) (i : Instr) (s : State) : (issue v i s).chkp = s.chkp := rfl
@[simp] theorem issue_errcode (v : Word) (i : Instr) (s : State) : (issue v i s).errcode = s.errcode := rfl
@[simp] theorem issue_erropc (v : Word) (i : Instr) (s : State) : (issue v i s).erropc = s.erropc := rfl
@[simp] theorem issue_a (v : Word) (i : Instr) (s : State) : (issue v i s).a = s.a := rfl
@[simp] theorem issue_b (v : Word) (i : Instr) (s : State) : (issue v i s).b = s.b := rfl
@[simp] theorem issue_r (v : Word) (i : Instr) (s : State) : (issue v i s).r = s.r := rfl
@[simp] theorem issue_rk (v : Word) (i : Instr) (s : State) : (issue v i s).rk = s.rk := rfl
@[simp] theorem issue_pending (v : Word) (i : Instr) (s : State) : (issue v i s).pending = some { word := v, a := captureA s, b := captureB s } := rfl
@[simp] theorem issue_datapath (v : Word) (i : Instr) (s : State) : (issue v i s).datapath = s.datapath := rfl
@[simp] theorem issue_resetLine (v : Word) (i : Instr) (s : State) : (issue v i s).resetLine = s.resetLine := rfl
@[simp] theorem issue_aWritten (v : Word) (i : Instr) (s : State) : (issue v i s).aWritten = s.aWritten := rfl
@[simp] theorem issue_bWritten (v : Word) (i : Instr) (s : State) : (issue v i s).bWritten = s.bWritten := rfl
@[simp] theorem issue_rWritten (v : Word) (i : Instr) (s : State) : (issue v i s).rWritten = s.rWritten := rfl
@[simp] theorem issue_uninitOperand (v : Word) (i : Instr) (s : State) : (issue v i s).uninitOperand = (s.uninitOperand || readsUnwritten i s) := rfl
@[simp] theorem issue_inbox (v : Word) (i : Instr) (s : State) : (issue v i s).inbox = s.inbox := rfl
@[simp] theorem issue_replies (v : Word) (i : Instr) (s : State) : (issue v i s).replies = s.replies := rfl
@[simp] theorem issue_draws (v : Word) (i : Instr) (s : State) : (issue v i s).draws = s.draws + 2 := rfl

/-! ### resetBlock -/

@[simp] theorem resetBlock_params (s : State) : (resetBlock s).params = s.params := rfl
@[simp] theorem resetBlock_cmd (s : State) : (resetBlock s).cmd = State.reset.cmd := rfl
@[simp] theorem resetBlock_busy (s : State) : (resetBlock s).busy = State.reset.busy := rfl
@[simp] theorem resetBlock_done (s : State) : (resetBlock s).done = State.reset.done := rfl
@[simp] theorem resetBlock_err (s : State) : (resetBlock s).err = State.reset.err := rfl
@[simp] theorem resetBlock_ksv (s : State) : (resetBlock s).ksv = State.reset.ksv := rfl
@[simp] theorem resetBlock_chkd (s : State) : (resetBlock s).chkd = State.reset.chkd := rfl
@[simp] theorem resetBlock_chkp (s : State) : (resetBlock s).chkp = State.reset.chkp := rfl
@[simp] theorem resetBlock_errcode (s : State) : (resetBlock s).errcode = State.reset.errcode := rfl
@[simp] theorem resetBlock_erropc (s : State) : (resetBlock s).erropc = State.reset.erropc := rfl
@[simp] theorem resetBlock_a (s : State) : (resetBlock s).a = State.reset.a := rfl
@[simp] theorem resetBlock_b (s : State) : (resetBlock s).b = State.reset.b := rfl
@[simp] theorem resetBlock_r (s : State) : (resetBlock s).r = State.reset.r := rfl
@[simp] theorem resetBlock_rk (s : State) : (resetBlock s).rk = State.reset.rk := rfl
@[simp] theorem resetBlock_pending (s : State) : (resetBlock s).pending = State.reset.pending := rfl
@[simp] theorem resetBlock_datapath (s : State) : (resetBlock s).datapath = State.reset.datapath := rfl
@[simp] theorem resetBlock_resetLine (s : State) : (resetBlock s).resetLine = s.resetLine := rfl
@[simp] theorem resetBlock_aWritten (s : State) : (resetBlock s).aWritten = State.reset.aWritten := rfl
@[simp] theorem resetBlock_bWritten (s : State) : (resetBlock s).bWritten = State.reset.bWritten := rfl
@[simp] theorem resetBlock_rWritten (s : State) : (resetBlock s).rWritten = State.reset.rWritten := rfl
@[simp] theorem resetBlock_uninitOperand (s : State) : (resetBlock s).uninitOperand = s.uninitOperand := rfl
@[simp] theorem resetBlock_inbox (s : State) : (resetBlock s).inbox = s.inbox := rfl
@[simp] theorem resetBlock_replies (s : State) : (resetBlock s).replies = s.replies := rfl
@[simp] theorem resetBlock_draws (s : State) : (resetBlock s).draws = s.draws := rfl

end Sys2Proof.Machine
end

