-- ==== Sys2Proof/Laws/Bus.lean ====
section
/-! SUPPORT. What each operation of the register window can do, said once. -/

namespace Sys2Proof.Machine

/-- An access that goes on is an accepted access in the window (R50, R52). -/
theorem access_eq_next_iff {s t : State} {addr size : Nat} {body : Slot → State} :
    access s addr size body = .next t ↔
      inWindow s addr = true ∧ accepted s addr size = true ∧
        t = body (slotAt (addr - s.params.desBase)) := by
  unfold access
  cases inWindow s addr <;> cases accepted s addr size <;> simp [eq_comm]

/-- An accepted access at offset `8 * n` of the window. -/
theorem access_at {s : State} {n : Nat} (h : n < 32) (body : Slot → State) :
    access s (s.params.desBase + 8 * n) 8 body = .next (body (slotAt (8 * n))) := by
  rw [access_eq_next_iff]
  refine ⟨?_, ?_, ?_⟩ <;> simp [inWindow, accepted]
  omega

/-- A host read changes nothing but the replies and the count of draws (R57). -/
theorem readSlot_eq (slot : Slot) (s : State) :
    ∃ v d, readSlot slot s = { s with replies := v :: s.replies, draws := d } := by
  unfold readSlot
  split
  · exact ⟨_, _, rfl⟩
  · split
    · exact ⟨_, _, rfl⟩
    · exact ⟨_, _, rfl⟩

/-- A busy violation with its pending record (R213). -/
theorem busyViolation_of_pending {s : State} {p : Pending} (h : s.pending = some p) :
    busyViolation s = errorEntry .busyViolation (pendingOpc p) { s with pending := none } := by
  rw [busyViolation, h]

/-- All that a host write to CMD can do (R34). -/
theorem writeCmd_cases (v : Word) (s : State) :
    (s.busy = true ∧ writeCmd v s = busyViolation s) ∨
      (s.busy = false ∧ s.err = true ∧ writeCmd v s = s) ∨
      (s.busy = false ∧ s.err = false ∧ legal v = false ∧
        writeCmd v s = errorEntry .illegalCmd (opcOf v) { s with cmd := v, done := false }) ∨
      (∃ i, s.busy = false ∧ s.err = false ∧ decode v = .ok i ∧ legal v = true ∧
        writeCmd v s = issue v i { s with cmd := v, done := false }) := by
  unfold writeCmd legal
  cases s.busy <;> cases s.err <;> cases decode v <;> simp

/-- A host write to a read-only or unmapped slot changes nothing (R54, R55). -/
theorem writeSlot_ignored {slot : Slot} (h : slot ≠ .cmd) (ha : slot ≠ .a) (hb : slot ≠ .b)
    (v : Word) (s : State) : writeSlot slot v s = s := by
  cases slot <;> simp_all [writeSlot]

end Sys2Proof.Machine
end

