-- ==== Sys2Proof/Laws/Ops.lean ====
section
/-! SUPPORT. What each shared operation of a command can do, said once. -/

namespace Sys2Proof.Machine

/-- Complete on a pending record. -/
theorem complete_of_pending {s : State} {p : Pending} (h : s.pending = some p)
    (body : Pending → State → State) : complete s body = .next (body p (retire s)) := by
  rw [complete, h]

/-- Complete without a pending record. -/
theorem complete_of_idle {s : State} (h : s.pending = none) (body : Pending → State → State) :
    complete s body = .next s := by
  rw [complete, h]

/-- All that Complete can do. -/
theorem complete_cases {s t : State} {body : Pending → State → State} (h : complete s body = .next t) :
    (s.pending = none ∧ t = s) ∨ (∃ p, s.pending = some p ∧ t = body p (retire s)) := by
  cases hp : s.pending with
  | none =>
    rw [complete_of_idle hp] at h
    exact .inl ⟨rfl, by cases h; rfl⟩
  | some p =>
    rw [complete_of_pending hp] at h
    exact .inr ⟨p, rfl, by cases h; rfl⟩

/-- The width check passes. -/
theorem withWidth_of_fits {W : Nat} {v : Word} (h : fits W v = true) (p : Pending) (s : State)
    (body : BitVec W → State) : withWidth W v p s body = body (v.setWidth W) := by
  rw [withWidth, if_pos h]

/-- The width check fails: WIDTH, and no result (R100). -/
theorem withWidth_of_wide {W : Nat} {v : Word} (h : fits W v = false) (p : Pending) (s : State)
    (body : BitVec W → State) : withWidth W v p s body = raiseErr .width p s := by
  rw [withWidth, if_neg (by simp [h])]

/-- A command of one operand whose width check passes. -/
theorem unary_of_fits {W n : Nat} {p : Pending} (h : fits W p.a = true) (fn : BitVec W → BitVec n)
    (s : State) : unary W fn p s = writeResult (fn (p.a.setWidth W)) s :=
  withWidth_of_fits h p s _

/-- A command of one operand whose width check fails. -/
theorem unary_of_wide {W n : Nat} {p : Pending} (h : fits W p.a = false) (fn : BitVec W → BitVec n)
    (s : State) : unary W fn p s = raiseErr .width p s :=
  withWidth_of_wide h p s _

/-- All that a command of one operand can do. -/
theorem unary_cases {W n : Nat} (fn : BitVec W → BitVec n) (p : Pending) (s : State) :
    (fits W p.a = true ∧ unary W fn p s = writeResult (fn (p.a.setWidth W)) s) ∨
      (fits W p.a = false ∧ unary W fn p s = raiseErr .width p s) := by
  cases h : fits W p.a with
  | true => exact .inl ⟨rfl, unary_of_fits h fn s⟩
  | false => exact .inr ⟨rfl, unary_of_wide h fn s⟩

end Sys2Proof.Machine
end

