-- ==== Sys2Proof/Laws/Cipher.lean ====
section
/-! SUPPORT. The model's functions against the vocabulary of the statements: each relation of `Sys2Proof.Spec` has exactly the
value that the model computes. Later proofs cite these lemmas and unfold neither side. -/

namespace Sys2Proof.Machine

open Sys2Proof.Spec

theorem selects_select {W n : Nat} (T : List Nat) (hlen : T.length = n) (x : BitVec W) :
    Selects T x (select n T x) := by
  intro j h1 hn
  rw [select_getLsbD T x hlen _ (by omega)]
  congr 3
  omega

theorem selects_unique {W n : Nat} {T : List Nat} {x : BitVec W} {u v : BitVec n}
    (hu : Selects T x u) (hv : Selects T x v) : u = v :=
  eq_of_dbit_eq fun j h1 hn => (hu j h1 hn).trans (hv j h1 hn).symm

/-- `Selects` with a table of full length is `select`. -/
theorem selects_iff {W n : Nat} (T : List Nat) (hlen : T.length = n) (x : BitVec W) (v : BitVec n) :
    Selects T x v ↔ v = select n T x :=
  ⟨fun h => selects_unique h (selects_select T hlen x), fun h => h ▸ selects_select T hlen x⟩

theorem isSbox_iff {n : Nat} (h1 : 1 ≤ n) (h8 : n ≤ 8) (g : BitVec 6) (o : BitVec 4) :
    IsSbox n g o ↔ o = sbox n g := by
  have hval : (sbox n g).toNat =
      ((tableS n).getD (2 * (g.toNat / 32) + g.toNat % 2) []).getD (g.toNat / 2 % 16) 0 := by
    revert g
    interval_cases n <;> decide
  rw [IsSbox, ← hval, BitVec.toNat_inj]

/-- Nibble n of the eight lanes is lane n (R146). -/
theorem nibble_sboxes (x : RoundKey) {n : Nat} (h1 : 1 ≤ n) (h8 : n ≤ 8) :
    (sboxes x).extractLsb' (32 - 4 * n) 4 = sbox n (x.extractLsb' (48 - 6 * n) 6) := by
  apply BitVec.eq_of_getLsbD_eq
  intro k hk
  rw [BitVec.getLsbD_extractLsb']
  unfold sboxes
  simp only [BitVec.getLsbD_append]
  interval_cases n <;> interval_cases k <;> simp [lane, groupOf]

/-- Two halves with the same eight nibbles are equal. -/
theorem eq_of_nibbles_eq {u v : Half}
    (h : ∀ n, 1 ≤ n → n ≤ 8 → u.extractLsb' (32 - 4 * n) 4 = v.extractLsb' (32 - 4 * n) 4) : u = v := by
  apply BitVec.eq_of_getLsbD_eq
  intro k hk
  have hn := congrArg (fun w => w.getLsbD (k % 4)) (h (8 - k / 4) (by omega) (by omega))
  have hk4 : k % 4 < 4 := Nat.mod_lt _ (by omega)
  have hpos : 32 - 4 * (8 - k / 4) + k % 4 = k := by omega
  simpa [BitVec.getLsbD_extractLsb', hk4, hpos] using hn

theorem isSboxes_iff (x : RoundKey) (o : Half) : IsSboxes x o ↔ o = sboxes x := by
  constructor
  · intro h
    refine eq_of_nibbles_eq fun n h1 h8 => ?_
    rw [(isSbox_iff h1 h8 _ _).1 (h n h1 h8), nibble_sboxes x h1 h8]
  · rintro rfl n h1 h8
    rw [isSbox_iff h1 h8, nibble_sboxes x h1 h8]

theorem isRoundF_iff (rk : RoundKey) (h o : Half) : IsRoundF rk h o ↔ o = roundF rk h := by
  constructor
  · rintro ⟨e, x, s, he, rfl, hs, ho⟩
    rw [(selects_iff listE rfl _ _).1 he, isSboxes_iff] at hs
    rw [hs] at ho
    exact (selects_iff listP rfl _ _).1 ho
  · rintro rfl
    exact ⟨expandE h, expandE h ^^^ rk, sboxes (expandE h ^^^ rk), selects_select listE rfl h, rfl,
      (isSboxes_iff _ _).2 rfl, selects_select listP rfl _⟩

/-- A block is its two halves (R145). -/
theorem leftHalf_append_rightHalf (y : Word) : leftHalf y ++ rightHalf y = y := by
  apply BitVec.eq_of_getLsbD_eq
  intro k hk
  rw [BitVec.getLsbD_append]
  simp only [leftHalf, rightHalf, BitVec.getLsbD_extractLsb']
  split
  · simp [*]
  · have hlow : k - 32 < 32 := by omega
    have hpos : 32 + (k - 32) = k := by omega
    simp [hlow, hpos]

theorem leftHalf_append (l r : Half) : leftHalf (l ++ r) = l := by
  apply BitVec.eq_of_getLsbD_eq
  intro k hk
  rw [leftHalf, BitVec.getLsbD_extractLsb', BitVec.getLsbD_append]
  simp [hk]

theorem rightHalf_append (l r : Half) : rightHalf (l ++ r) = r := by
  apply BitVec.eq_of_getLsbD_eq
  intro k hk
  rw [rightHalf, BitVec.getLsbD_extractLsb', BitVec.getLsbD_append]
  simp [hk]

/-- One more round. -/
theorem roundsOf_take_succ (keys : List RoundKey) (h : Half × Half) {i : Nat} (hi : i < keys.length) :
    roundsOf (keys.take (i + 1)) h = feistelRound (roundsOf (keys.take i) h) (keys.getD i 0) := by
  have htake : keys.take (i + 1) = keys.take i ++ [keys.getD i 0] := by
    rw [List.take_add_one]
    congr 1
    simp [List.getD_eq_getElem?_getD, hi]
  simp [htake, roundsOf]

/-- The model's halves are the rounds of R183. -/
theorem isRounds_roundsOf (keys : List RoundKey) (hlen : keys.length = 16) (x : Word) :
    IsRounds (fun i => keys.getD i 0) x (fun i => (roundsOf (keys.take i) (startHalves x)).1)
      (fun i => (roundsOf (keys.take i) (startHalves x)).2) := by
  refine ⟨?_, fun i hi => ?_⟩
  · simp only [List.take_zero, roundsOf, List.foldl_nil, startHalves, leftHalf_append_rightHalf]
    exact selects_select listIP rfl x
  · simp only [roundsOf_take_succ keys _ (hlen ▸ hi), feistelRound]
    exact ⟨trivial, _, (isRoundF_iff _ _ _).2 rfl, rfl⟩

/-- The rounds of R183 have no other halves. -/
theorem isRounds_unique {keys : List RoundKey} (hlen : keys.length = 16) {x : Word} {L R : Nat → Half}
    (h : IsRounds (fun i => keys.getD i 0) x L R) (i : Nat) (hi : i ≤ 16) :
    (L i, R i) = roundsOf (keys.take i) (startHalves x) := by
  induction i with
  | zero =>
    have h0 : L 0 ++ R 0 = permIP x := (selects_iff listIP rfl _ _).1 h.1
    simp only [List.take_zero, roundsOf, List.foldl_nil, startHalves, ← h0]
    rw [leftHalf_append, rightHalf_append]
  | succ i ih =>
    obtain ⟨hL, o, ho, hR⟩ := h.2 i (by omega)
    rw [isRoundF_iff] at ho
    rw [roundsOf_take_succ keys _ (by omega), ← ih (by omega), hL, hR, ho, feistelRound]

theorem isFeistel_iff (keys : List RoundKey) (hlen : keys.length = 16) (x y : Word) :
    IsFeistel (fun i => keys.getD i 0) x y ↔ y = feistel keys x := by
  have hall : keys.take 16 = keys := List.take_of_length_le (by omega)
  constructor
  · rintro ⟨L, R, hrounds, hy⟩
    have hend := isRounds_unique hlen hrounds 16 (by omega)
    rw [hall] at hend
    rw [(selects_iff listFP rfl _ _).1 hy, feistel, ← hend]
    rfl
  · rintro rfl
    refine ⟨_, _, isRounds_roundsOf keys hlen x, ?_⟩
    simp only [hall]
    exact selects_select listFP rfl _

theorem isFeistel_forward_iff (K : Vector RoundKey 16) (x y : Word) :
    IsFeistel (forward K) x y ↔ y = encipher K x :=
  isFeistel_iff K.toList (by simp) x y

/-- The relation looks at the sixteen keys only. -/
theorem isFeistel_congr {k k' : Nat → RoundKey} (h : ∀ i, i < 16 → k i = k' i) (x y : Word) :
    IsFeistel k x y ↔ IsFeistel k' x y := by
  have one : ∀ {k k' : Nat → RoundKey}, (∀ i, i < 16 → k i = k' i) → IsFeistel k x y → IsFeistel k' x y := by
    rintro k k' h ⟨L, R, ⟨h0, hr⟩, hy⟩
    exact ⟨L, R, ⟨h0, fun i hi => h i hi ▸ hr i hi⟩, hy⟩
  exact ⟨one h, one fun i hi => (h i hi).symm⟩

theorem isFeistel_backward_iff (K : Vector RoundKey 16) (x y : Word) :
    IsFeistel (backward K) x y ↔ y = decipher K x := by
  rw [decipher, ← isFeistel_iff K.toList.reverse (by simp) x y]
  refine isFeistel_congr (fun i hi => ?_) x y
  have hpos : 15 - i < K.toList.length := by simp; omega
  have hi' : i < K.toList.length := by simp; omega
  rw [backward, List.getD_eq_getElem?_getD, List.getD_eq_getElem?_getD, List.getElem?_reverse hi']
  simp

/-- The amounts of R160 agree. -/
theorem amt_eq_rotationAmount : ∀ r, r < 17 → 1 ≤ r → amt r = rotationAmount r := by decide

theorem rotl28_eq_rotateLeft (x : SubHalf) {n : Nat} (h : n = 1 ∨ n = 2) : rotl28 x n = x.rotateLeft n := by
  rcases h with rfl | rfl <;> simp [rotl28, BitVec.rotateLeft, BitVec.rotateLeftAux]

theorem rotr28_eq_rotateRight (x : SubHalf) {n : Nat} (h : n = 1 ∨ n = 2) : rotr28 x n = x.rotateRight n := by
  rcases h with rfl | rfl <;> simp [rotr28, BitVec.rotateRight, BitVec.rotateRightAux]

theorem rotationAmount_one_or_two (r : Nat) : rotationAmount r = 1 ∨ rotationAmount r = 2 := by
  unfold rotationAmount
  split <;> simp

/-- A key-schedule state is its two sub-halves (R120). -/
theorem halfC_append_halfD (y : KeyState) : halfC y ++ halfD y = y := by
  apply BitVec.eq_of_getLsbD_eq
  intro k hk
  rw [BitVec.getLsbD_append]
  simp only [halfC, halfD, BitVec.getLsbD_extractLsb']
  split
  · simp [*]
  · have hlow : k - 28 < 28 := by omega
    have hpos : 28 + (k - 28) = k := by omega
    simp [hlow, hpos]

@[simp] theorem halfC_append (c d : SubHalf) : halfC (c ++ d) = c := by
  apply BitVec.eq_of_getLsbD_eq
  intro k hk
  rw [halfC, BitVec.getLsbD_extractLsb', BitVec.getLsbD_append]
  simp [hk]

@[simp] theorem halfD_append (c d : SubHalf) : halfD (c ++ d) = d := by
  apply BitVec.eq_of_getLsbD_eq
  intro k hk
  rw [halfD, BitVec.getLsbD_extractLsb', BitVec.getLsbD_append]
  simp [hk]

/-- The sub-halves of R164 are the model's. -/
theorem isSubHalves_iff (key : Word) (C D : Nat → SubHalf) :
    IsSubHalves key C D ↔ ∀ i, i ≤ 16 → C i ++ D i = keyState key i := by
  have hrot : ∀ i, i < 16 → ∀ y : KeyState, rotlState (amt (i + 1)) y =
      (halfC y).rotateLeft (rotationAmount (i + 1)) ++ (halfD y).rotateLeft (rotationAmount (i + 1)) := by
    intro i hi y
    rw [rotlState, amt_eq_rotationAmount (i + 1) (by omega) (by omega),
      rotl28_eq_rotateLeft _ (rotationAmount_one_or_two _), rotl28_eq_rotateLeft _ (rotationAmount_one_or_two _)]
  constructor
  · rintro ⟨h0, hs⟩ i hi
    induction i with
    | zero => exact (selects_iff listPC1 rfl _ _).1 h0
    | succ i ih =>
      obtain ⟨hC, hD⟩ := hs i (by omega)
      rw [hC, hD, keyState, ← ih (by omega), hrot i (by omega), halfC_append, halfD_append]
  · intro h
    refine ⟨(selects_iff listPC1 rfl _ _).2 (h 0 (by omega)), fun i hi => ?_⟩
    have hnext := h (i + 1) (by omega)
    rw [keyState, ← h i (by omega), hrot i hi, halfC_append, halfD_append] at hnext
    exact ⟨by simpa using congrArg halfC hnext, by simpa using congrArg halfD hnext⟩

/-- Entry `i` of the model's schedule (R163). -/
theorem forward_keySchedule (key : Word) {i : Nat} (hi : i < 16) :
    forward (keySchedule key) i = roundKey key (i + 1) := by
  rw [forward, List.getD_eq_getElem?_getD, List.getElem?_eq_getElem (by simpa using hi)]
  simp [keySchedule]

/-- Two files with the same sixteen keys are equal. -/
theorem eq_of_forward_eq {K K' : Vector RoundKey 16} (h : ∀ i, i < 16 → forward K i = forward K' i) : K = K' := by
  apply Vector.ext
  intro i hi
  have hi' := h i hi
  simpa [forward, List.getD_eq_getElem?_getD, hi] using hi'

theorem isSchedule_iff (key : Word) (K : Vector RoundKey 16) : IsSchedule key K ↔ K = keySchedule key := by
  constructor
  · rintro ⟨C, D, hsub, hK⟩
    refine eq_of_forward_eq fun i hi => ?_
    rw [forward_keySchedule key hi, (selects_iff listPC2 rfl _ _).1 (hK i hi),
      (isSubHalves_iff key C D).1 hsub (i + 1) (by omega)]
    rfl
  · rintro rfl
    refine ⟨fun i => halfC (keyState key i), fun i => halfD (keyState key i),
      (isSubHalves_iff _ _ _).2 fun i _ => halfC_append_halfD _, fun i hi => ?_⟩
    rw [forward_keySchedule key hi, halfC_append_halfD]
    exact selects_select listPC2 rfl _

theorem triplePasses_iff (t : KnownAnswer) : TriplePasses t ↔ checkTriple t = true := by
  simp only [TriplePasses, isSchedule_iff, forall_eq, isFeistel_forward_iff, isFeistel_backward_iff, checkTriple,
    Bool.and_eq_true, beq_iff_eq]
  exact ⟨fun h => ⟨h.1.symm, h.2.symm⟩, fun h => ⟨h.1.symm, h.2.symm⟩⟩

end Sys2Proof.Machine
end

