-- ==== Sys2Proof/Laws/Exec.lean ====
section
/-! SUPPORT. All that the completion of a command can do, said once for the 21 commands. Later proofs cite `exec_cases` and
do not unfold a meaning. -/

namespace Sys2Proof.Machine

/-- How a command `i` with the pending record `p` can end in `t`: with a result in R, with an error of its own, as a key schedule,
or as a self-check that passes or fails. -/
inductive Completes (i : Instr) (p : Pending) (s t : State) : Prop where
  | result (v : Word) (d : Datapath) (hi : i ≠ .ks ∧ i ≠ .check)
      (hd : i ∉ [.f, .enc, .dec] → d = s.datapath)
      (ht : t = { s with pending := none, busy := false, r := v, rWritten := true, done := true, datapath := d })
  | error (code : ErrCode) (hi : i ≠ .ks ∧ i ≠ .check)
      (hc : code ∈ [.sboxIndex, .roundIndex, .noSchedule, .width, .eMismatch])
      (hk : code = .noSchedule → s.ksv = false)
      (ht : t = raiseErr code p { s with pending := none, busy := false })
  | schedule (hi : i = .ks)
      (ht : ∃ d, t = { s with
        pending := none, busy := false, rk := keySchedule p.a, ksv := true, done := true, datapath := d })
  | checkPass (hi : i = .check) (hp : selfCheck s.params.selfcheckSet = true)
      (ht : ∃ d, t = { s with
        pending := none, busy := false, chkd := true, chkp := true, done := true, datapath := d })
  | checkFail (hi : i = .check) (hp : selfCheck s.params.selfcheckSet = false)
      (ht : t = raiseErr .selfcheckFail p { s with pending := none, busy := false, chkd := true, chkp := false })

/-- A command of one operand completes with a result, or with WIDTH. -/
theorem unary_completes {i : Instr} {W n : Nat} (fn : BitVec W → BitVec n) (p : Pending) (s : State)
    (hi : i ≠ .ks ∧ i ≠ .check) : Completes i p s (unary W fn p (retire s)) := by
  rcases unary_cases fn p (retire s) with ⟨_, h⟩ | ⟨_, h⟩ <;> rw [h]
  · exact .result _ s.datapath hi (fun _ => rfl) rfl
  · exact .error .width hi (by simp) (by simp) rfl

/-- Every command completes in one of the five ways. -/
theorem exec_completes {s : State} {p : Pending} (hp : s.pending = some p) (i : Instr) :
    ∃ t, exec i s = .next t ∧ Completes i p s t := by
  have one : ∀ {W n : Nat} (fn : BitVec W → BitVec n), i ≠ .ks ∧ i ≠ .check →
      ∃ t, complete s (unary W fn) = .next t ∧ Completes i p s t :=
    fun fn hi => ⟨_, complete_of_pending hp _, unary_completes fn p s hi⟩
  have indexed : ∀ {W n : Nat} (fn : BitVec W → BitVec n) (bad : Prop) [Decidable bad] (code : ErrCode),
      i ≠ .ks ∧ i ≠ .check → code ∈ [ErrCode.sboxIndex, .roundIndex] →
      ∃ t, complete s (fun p t => if bad then raiseErr code p t else unary W fn p t) = .next t ∧
        Completes i p s t := by
    intro W n fn bad _ code hi hc
    refine ⟨_, complete_of_pending hp _, ?_⟩
    split
    · refine .error code hi ?_ ?_ rfl
      · rcases List.mem_pair.1 hc with rfl | rfl <;> simp
      · rintro rfl; simp at hc
    · exact unary_completes fn p s hi
  cases i with
  | ip => exact one permIP (by simp)
  | fp => exact one permFP (by simp)
  | e => exact one expandE (by simp)
  | einv =>
    rw [exec, execEinv, complete_of_pending hp]
    refine ⟨_, rfl, ?_⟩
    by_cases hf : fits 48 p.a = true
    · rw [withWidth_of_fits hf]
      split
      · exact .error .eMismatch (by simp) (by simp) (by simp) rfl
      · exact .result _ s.datapath (by simp) (fun _ => rfl) rfl
    · rw [withWidth_of_wide (by simpa using hf)]
      exact .error .width (by simp) (by simp) (by simp) rfl
  | p => exact one permP (by simp)
  | pinv => exact one permPINV (by simp)
  | pc1 => exact one selectPC1 (by simp)
  | pc1inv => exact one inversePC1 (by simp)
  | pc2 => exact one selectPC2 (by simp)
  | pc2inv => exact one inversePC2 (by simp)
  | sbox idx => exact indexed (sbox idx) _ .sboxIndex (by simp) (by simp)
  | sboxes => exact one sboxes (by simp)
  | lhalf => exact one leftHalf (by simp)
  | rhalf => exact one rightHalf (by simp)
  | rotl idx => exact indexed (rotlState (amt idx)) _ .roundIndex (by simp) (by simp)
  | rotr idx => exact indexed (rotrState (amt idx)) _ .roundIndex (by simp) (by simp)
  | f =>
    rw [exec, execF, complete_of_pending hp]
    refine ⟨_, rfl, ?_⟩
    by_cases ha : fits 48 p.a = true
    · rw [withWidth_of_fits ha]
      by_cases hb : fits 32 p.b = true
      · rw [withWidth_of_fits hb]
        exact .result _ _ (by simp) (by simp) rfl
      · rw [withWidth_of_wide (by simpa using hb)]
        exact .error .width (by simp) (by simp) (by simp) rfl
    · rw [withWidth_of_wide (by simpa using ha)]
      exact .error .width (by simp) (by simp) (by simp) rfl
  | ks =>
    rw [exec, execKs, complete_of_pending hp]
    exact ⟨_, rfl, .schedule rfl ⟨_, rfl⟩⟩
  | enc =>
    rw [exec, execEnc, complete_of_pending hp]
    refine ⟨_, rfl, ?_⟩
    split
    · exact .result _ _ (by simp) (by simp) rfl
    · next h => exact .error .noSchedule (by simp) (by simp) (fun _ => by simpa using h) rfl
  | dec =>
    rw [exec, execDec, complete_of_pending hp]
    refine ⟨_, rfl, ?_⟩
    split
    · exact .result _ _ (by simp) (by simp) rfl
    · next h => exact .error .noSchedule (by simp) (by simp) (fun _ => by simpa using h) rfl
  | check =>
    rw [exec, execCheck, complete_of_pending hp]
    refine ⟨_, rfl, ?_⟩
    split
    · next h => exact .checkPass rfl h ⟨_, rfl⟩
    · next h => exact .checkFail rfl (by simpa using h) rfl

/-- Without a pending record no command does anything. -/
theorem exec_of_idle {s : State} (h : s.pending = none) (i : Instr) : exec i s = .next s := by
  cases i <;>
    simp only [exec, execIp, execFp, execE, execEinv, execP, execPinv, execPc1, execPc1inv, execPc2,
      execPc2inv, execSbox, execSboxes, execLhalf, execRhalf, execRotl, execRotr, execF, execKs,
      execEnc, execDec, execCheck, complete_of_idle h]

/-- All that the completion of a command can do. -/
theorem exec_cases {i : Instr} {s t : State} (h : exec i s = .next t) :
    (s.pending = none ∧ t = s) ∨ (∃ p, s.pending = some p ∧ Completes i p s t) := by
  cases hp : s.pending with
  | none =>
    rw [exec_of_idle hp] at h
    exact .inl ⟨rfl, by cases h; rfl⟩
  | some p =>
    obtain ⟨u, hu, hc⟩ := exec_completes hp i
    rw [hu] at h
    cases h
    exact .inr ⟨p, rfl, hc⟩

end Sys2Proof.Machine
end

