-- ==== Sys2Proof/Laws/PerInstr.lean ====
section
/-! SUPPORT. The family OpcodeInTable: what R72 says of every command as syntax, one lemma per constructor. -/

namespace Sys2Proof.Laws.OpcodeInTable

/-- The command's OPC is one of 0x01..0x15, and selects this command (R72). -/
def Statement (i : Instr) : Prop :=
  1 ≤ (opcode i).toNat ∧ (opcode i).toNat ≤ 0x15 ∧ commandOf (opcode i).toNat i.index = some i

theorem ip : Statement .ip := ⟨by simp [opcode], by simp [opcode], rfl⟩
theorem fp : Statement .fp := ⟨by simp [opcode], by simp [opcode], rfl⟩
theorem e : Statement .e := ⟨by simp [opcode], by simp [opcode], rfl⟩
theorem einv : Statement .einv := ⟨by simp [opcode], by simp [opcode], rfl⟩
theorem p : Statement .p := ⟨by simp [opcode], by simp [opcode], rfl⟩
theorem pinv : Statement .pinv := ⟨by simp [opcode], by simp [opcode], rfl⟩
theorem pc1 : Statement .pc1 := ⟨by simp [opcode], by simp [opcode], rfl⟩
theorem pc1inv : Statement .pc1inv := ⟨by simp [opcode], by simp [opcode], rfl⟩
theorem pc2 : Statement .pc2 := ⟨by simp [opcode], by simp [opcode], rfl⟩
theorem pc2inv : Statement .pc2inv := ⟨by simp [opcode], by simp [opcode], rfl⟩
theorem sboxes : Statement .sboxes := ⟨by simp [opcode], by simp [opcode], rfl⟩
theorem lhalf : Statement .lhalf := ⟨by simp [opcode], by simp [opcode], rfl⟩
theorem rhalf : Statement .rhalf := ⟨by simp [opcode], by simp [opcode], rfl⟩
theorem f : Statement .f := ⟨by simp [opcode], by simp [opcode], rfl⟩
theorem ks : Statement .ks := ⟨by simp [opcode], by simp [opcode], rfl⟩
theorem enc : Statement .enc := ⟨by simp [opcode], by simp [opcode], rfl⟩
theorem dec : Statement .dec := ⟨by simp [opcode], by simp [opcode], rfl⟩
theorem check : Statement .check := ⟨by simp [opcode], by simp [opcode], rfl⟩
theorem sbox (idx : Nat) : Statement (.sbox idx) := ⟨by simp [opcode], by simp [opcode], rfl⟩
theorem rotl (idx : Nat) : Statement (.rotl idx) := ⟨by simp [opcode], by simp [opcode], rfl⟩
theorem rotr (idx : Nat) : Statement (.rotr idx) := ⟨by simp [opcode], by simp [opcode], rfl⟩

end Sys2Proof.Laws.OpcodeInTable
end

