-- ==== Sys2Proof/Laws/Step.lean ====
section
/-! SUPPORT. The step by the event that comes next. -/

namespace Sys2Proof.Machine

theorem step_of_no_event {s : State} (h : s.inbox = []) : step s = engineTurn s := by
  rw [step, nextEvent, h]

theorem step_of_event {s : State} {ev : Event} {rest : List Event} (h : s.inbox = ev :: rest) :
    step s = handle ev { s with inbox := rest } := by
  rw [step, nextEvent, h]

/-- The engine's turn with nothing pending. -/
theorem engineTurn_of_idle {s : State} (h : s.pending = none) : engineTurn s = .next s := by
  rw [engineTurn, h]

/-- The engine's turn on a pending command. -/
theorem engineTurn_of_pending {s : State} {p : Pending} {i : Instr} (h : s.pending = some p)
    (hd : decode p.word = .ok i) : engineTurn s = exec i s := by
  rw [engineTurn, h]
  simp only [hd]

end Sys2Proof.Machine
end

