-- ==== Sys2Proof/Tests/Slice0.lean ====
section
/-! SUPPORT. Tests, and for every statement that has hypotheses a witness that meets them. Expected values are those of
95_test_vectors.md, or of the rule a test names. `decide +kernel` lets the kernel do the evaluation. -/

/- One theorem at a time: each `decide +kernel` would else take a thread with a stack of its own. -/
set_option Elab.async false

namespace Sys2Proof.Tests

open Sys2Proof.Machine Sys2Proof.Spec

/-- A block on which the host has written A and B and issued `i`. -/
def pendingOn (i : Instr) (a b : Word) : State :=
  { State.reset with
    cmd := encode i, busy := true, pending := some ⟨encode i, a, b⟩
    a := a, b := b, aWritten := true, bWritten := true }

/-- A block after a KS with the key of the worked example, on which `i` has been issued. -/
def keyedOn (i : Instr) (a : Word) : State :=
  { pendingOn i a 0 with ksv := true, rk := keySchedule 0x133457799BBCDFF1 }

/-- R and STATUS after a completion. -/
def outcome (o : Host.Outcome State Fault Refusal) : Option (Word × Word) :=
  match o with
  | .next t => some (t.r, statusWord t)
  | .fault _ => none
  | .refused _ => none

/-- A next state with the property `f`. -/
def nextWith (o : Host.Outcome State Fault Refusal) (f : State → Bool) : Bool :=
  match o with
  | .next t => f t
  | .fault _ => false
  | .refused _ => false

/-! ### WellFormed refuses an index that does not fit IDX (R71) -/

theorem test_wellFormed_refuses_sbox_32 : (Instr.sbox 32).wellFormed = false := by decide
theorem test_wellFormed_refuses_rotl_32 : (Instr.rotl 32).wellFormed = false := by decide
theorem test_wellFormed_refuses_rotr_32 : (Instr.rotr 32).wellFormed = false := by decide
theorem test_wellFormed_accepts_sbox_31 : (Instr.sbox 31).wellFormed = true := by decide

/-! ### Decode: each command's word, its bits written out from R71 and R72 (IDX in bits 12:8, OPC in bits 5:0) -/

theorem test_decode_ip : decode 0b000001 = .ok .ip := by decide
theorem test_decode_fp : decode 0b000010 = .ok .fp := by decide
theorem test_decode_e : decode 0b000011 = .ok .e := by decide
theorem test_decode_einv : decode 0b000100 = .ok .einv := by decide
theorem test_decode_p : decode 0b000101 = .ok .p := by decide
theorem test_decode_pinv : decode 0b000110 = .ok .pinv := by decide
theorem test_decode_pc1 : decode 0b000111 = .ok .pc1 := by decide
theorem test_decode_pc1inv : decode 0b001000 = .ok .pc1inv := by decide
theorem test_decode_pc2 : decode 0b001001 = .ok .pc2 := by decide
theorem test_decode_pc2inv : decode 0b001010 = .ok .pc2inv := by decide
theorem test_decode_sbox : decode 0b00011_00_001011 = .ok (.sbox 3) := by decide
theorem test_decode_sboxes : decode 0b001100 = .ok .sboxes := by decide
theorem test_decode_lhalf : decode 0b001101 = .ok .lhalf := by decide
theorem test_decode_rhalf : decode 0b001110 = .ok .rhalf := by decide
theorem test_decode_rotl : decode 0b00010_00_001111 = .ok (.rotl 2) := by decide
theorem test_decode_rotr : decode 0b10000_00_010000 = .ok (.rotr 16) := by decide
theorem test_decode_f : decode 0b010001 = .ok .f := by decide
theorem test_decode_ks : decode 0b010010 = .ok .ks := by decide
theorem test_decode_enc : decode 0b010011 = .ok .enc := by decide
theorem test_decode_dec : decode 0b010100 = .ok .dec := by decide
theorem test_decode_check : decode 0b010101 = .ok .check := by decide

/-! ### Decode refuses by name (R75; the words of 95_test_vectors.md 2.5) -/

theorem test_decode_opc_0 : decode 0x0 = .error .unknownOpc := by decide
theorem test_decode_opc_16 : decode 0x16 = .error .unknownOpc := by decide
theorem test_decode_index_on_enc : decode 0x113 = .error .indexNotAllowed := by decide
theorem test_decode_bit_6 : decode 0x41 = .error .reservedBits := by decide
theorem test_decode_bit_13 : decode 0x200B = .error .reservedBits := by decide
theorem test_decode_bit_32 : decode 0x100000001 = .error .reservedBits := by decide
theorem test_table_word : decodeTableWord 64 0x1010 = some (.rotr 16) := by decide

/-! ### One completion each (95_test_vectors.md 2.1 to 2.4): R and STATUS -/

theorem test_ip : outcome (exec .ip (pendingOn .ip 0x40 0x0)) = some (0x8000000000000000, 0x2) := by decide +kernel
theorem test_fp : outcome (exec .fp (pendingOn .fp 0xA4CD99543423234 0x0)) = some (0x85E813540F0AB405, 0x2) := by decide +kernel
theorem test_e : outcome (exec .e (pendingOn .e 0xF0AAF0AA 0x0)) = some (0x7A15557A1555, 0x2) := by decide +kernel
theorem test_e_width : outcome (exec .e (pendingOn .e 0x100000000 0x0)) = some (0x0, 0x30604) := by decide +kernel
theorem test_einv : outcome (exec .einv (pendingOn .einv 0x7A15557A1555 0x0)) = some (0xF0AAF0AA, 0x2) := by decide +kernel
theorem test_einv_mismatch : outcome (exec .einv (pendingOn .einv 0x7A15557A1554 0x0)) = some (0x0, 0x40704) := by decide +kernel
theorem test_p : outcome (exec .p (pendingOn .p 0x5C82B597 0x0)) = some (0x234AA9BB, 0x2) := by decide +kernel
theorem test_pinv : outcome (exec .pinv (pendingOn .pinv 0x80000000 0x0)) = some (0x10000, 0x2) := by decide +kernel
theorem test_pc1 : outcome (exec .pc1 (pendingOn .pc1 0x133457799BBCDFF1 0x0)) = some (0xF0CCAAF556678F, 0x2) := by decide +kernel
theorem test_pc1inv : outcome (exec .pc1inv (pendingOn .pc1inv 0x80000000000000 0x0)) = some (0x101010101010180, 0x2) := by decide +kernel
theorem test_pc2 : outcome (exec .pc2 (pendingOn .pc2 0xE19955FAACCF1E 0x0)) = some (0x1B02EFFC7072, 0x2) := by decide +kernel
theorem test_pc2inv : outcome (exec .pc2inv (pendingOn .pc2inv 0x1B02EFFC7072 0x0)) = some (0xE119117A88CF1A, 0x2) := by decide +kernel
theorem test_sbox : outcome (exec (.sbox 1) (pendingOn (.sbox 1) 0x18 0x0)) = some (0x5, 0x2) := by decide +kernel
theorem test_sbox_index_before_width : outcome (exec (.sbox 9) (pendingOn (.sbox 9) 0x40 0x0)) = some (0x0, 0xB0304) := by decide +kernel
theorem test_sboxes : outcome (exec .sboxes (pendingOn .sboxes 0x6117BA866527 0x0)) = some (0x5C82B597, 0x2) := by decide +kernel
theorem test_lhalf : outcome (exec .lhalf (pendingOn .lhalf 0x123456789ABCDEF 0x0)) = some (0x1234567, 0x2) := by decide +kernel
theorem test_rhalf : outcome (exec .rhalf (pendingOn .rhalf 0x123456789ABCDEF 0x0)) = some (0x89ABCDEF, 0x2) := by decide +kernel
theorem test_rotl : outcome (exec (.rotl 3) (pendingOn (.rotl 3) 0x80000008000000 0x0)) = some (0x20000002, 0x2) := by decide +kernel
theorem test_rotl_index : outcome (exec (.rotl 17) (pendingOn (.rotl 17) 0x0 0x0)) = some (0x0, 0xF0404) := by decide +kernel
theorem test_rotr : outcome (exec (.rotr 3) (pendingOn (.rotr 3) 0xE19955FAACCF1E 0x0)) = some (0xF866557AAB33C7, 0x2) := by decide +kernel
theorem test_f : outcome (exec .f (pendingOn .f 0xCB3D8B0E17F5 0x43423234)) = some (0xC8C04F98, 0x2) := by decide +kernel
theorem test_f_width_b : outcome (exec .f (pendingOn .f 0x0 0x100000000)) = some (0x0, 0x110604) := by decide +kernel
theorem test_enc_no_schedule : outcome (exec .enc (pendingOn .enc 0x123456789ABCDEF 0x0)) = some (0x0, 0x130504) := by decide +kernel
theorem test_dec_no_schedule : outcome (exec .dec (pendingOn .dec 0x0 0x0)) = some (0x0, 0x140504) := by decide +kernel

theorem test_ks_last_key :
    nextWith (exec .ks (pendingOn .ks 0x133457799BBCDFF1 0))
      (fun t => t.rk[15] == 0xCB3D8B0E17F5 && t.ksv && t.r == 0) = true := by decide +kernel
theorem test_enc :
    outcome (exec .enc (keyedOn .enc 0x0123456789ABCDEF)) = some (0x85E813540F0AB405, 0xA) := by decide +kernel
theorem test_dec :
    outcome (exec .dec (keyedOn .dec 0x85E813540F0AB405)) = some (0x0123456789ABCDEF, 0xA) := by decide +kernel
theorem test_check_wrong_triple :
    outcome (exec .check { pendingOn .check 0 0 with params := { desBase := 0, selfcheckSet := [⟨0, 0, 0⟩] } }) =
      some (0, 0x150814) := by decide +kernel
/-- Row V10 of 95_test_vectors.md, in both directions. -/
theorem test_check_one_triple :
    outcome (exec .check { pendingOn .check 0 0 with
      params := { desBase := 0, selfcheckSet := [⟨0xFEDCBA9876543210, 0x0123456789ABCDEF, 0xED39D950FA74BCC4⟩] } }) =
      some (0, 0x32) := by decide +kernel

/-! ### The tables against each other (R104, R106, R108, R111, R113, R116, R117, R119, R140) -/

theorem test_fp_inverts_ip : ∀ j < 64, tableFP.getD (tableIP.getD j 0 - 1) 0 = j + 1 := by decide
theorem test_pinv_inverts_p : ∀ j < 32, tablePINV.getD (tableP.getD j 0 - 1) 0 = j + 1 := by decide
theorem test_pairs_copy_one_bit :
    ∀ k ∈ pairsE, k.1 < k.2 ∧ tableE.getD (k.1 - 1) 0 = tableE.getD (k.2 - 1) 0 := by decide
theorem test_pc1inv_positions : ∀ q < 56, tablePC1INV.getD (tablePC1.getD q 0 - 1) 0 = q + 1 := by decide
theorem test_pc2inv_positions : ∀ q < 48, tablePC2INV.getD (tablePC2.getD q 0 - 1) 0 = q + 1 := by decide
theorem test_sbox_rows_are_permutations :
    ∀ n < 8, ∀ row < 4, ∀ x < 16, x ∈ (tableS (n + 1)).getD row [] := by decide +kernel

/-! ### The register window, one step each (95_test_vectors.md 2.5) -/

/-- Reset with one event to come. -/
def withEvent (s : State) (ev : Event) : State := { s with inbox := [ev] }

theorem test_issue_ip :
    nextWith (step (withEvent { State.reset with a := 5, aWritten := true } (wr 0 .cmd 0x01)))
      (fun t => statusWord t == 0x1 && t.cmd == 0x01 && t.pending.map (fun p => p.a) == some 5) = true := by
  decide +kernel
theorem test_illegal_command :
    nextWith (step (withEvent State.reset (wr 0 .cmd 0x40000001))) (fun t => statusWord t == 0x10204) = true := by
  decide +kernel
theorem test_busy_violation :
    nextWith (step (withEvent (pendingOn .ip 0x0123456789ABCDEF 0) (wr 0 .a 0)))
      (fun t => statusWord t == 0x10104 && t.a == 0x0123456789ABCDEF && t.pending == none) = true := by
  decide +kernel
theorem test_error_state_ignores_command :
    nextWith (step (withEvent (errorEntry .eMismatch 4 { State.reset with cmd := 4 }) (wr 0 .cmd 0x01)))
      (fun t => statusWord t == 0x40704 && t.cmd == 4) = true := by decide +kernel
theorem test_read_rk16 :
    nextWith (step (withEvent { State.reset with ksv := true, rk := Vector.replicate 16 7 } (.read 0xF8 8)))
      (fun t => t.replies == [7]) = true := by decide +kernel
theorem test_narrow_read_refused :
    step (withEvent State.reset (.read 0x08 4)) = .refused (.refusedAccess 0x08 4) := by rfl
theorem test_misaligned_read_refused :
    step (withEvent State.reset (.read 0x04 8)) = .refused (.refusedAccess 0x04 8) := by rfl
theorem test_access_outside_window :
    step (withEvent State.reset (.read 0x100 8)) = .fault (.outsideWindow 0x100) := by rfl
theorem test_reset_discards_pending :
    nextWith (step (withEvent (pendingOn .ip 1 1) .assertReset))
      (fun t => t.pending == none && statusWord t == 0 && !t.aWritten) = true := by decide +kernel
theorem test_first_command_after_reset :
    outcome (step (State.reset.withFetchWord 64 0x01)) = some (0, 0x2) := by decide +kernel

/-! ### Witnesses: the hypotheses of each statement are met together, clause by clause -/

theorem witness_EngineTurnRunsPendingCommand :
    (pendingOn .ip 0 0).pending = some ⟨0x01, 0, 0⟩ ∧ decode 0x01 = .ok .ip ∧ (pendingOn .ip 0 0).inbox = [] ∧
      (withEvent (pendingOn .ip 0 0) .engine).inbox = .engine :: [] := by decide +kernel
theorem witness_DecodeOfEncode :
    (Instr.sbox 31).wellFormed = true ∧ Instr.check.wellFormed = true := by decide +kernel
theorem witness_EncodeOfDecode :
    decode 0x1F0B = .ok (.sbox 31) := by decide
theorem invariant_of_pending : (pendingOn .ip 0 0).Inv := by
  constructor <;> simp [pendingOn, State.reset, defaultParams]
  decide
theorem invariant_of_pending_ks : (pendingOn .ks 0 0).Inv := by
  constructor <;> simp [pendingOn, State.reset, defaultParams]
  decide
theorem witness_StepKeepsInvariant :
    (pendingOn .ip 0 0).Inv ∧ nextWith (step (pendingOn .ip 0 0)) (fun _ => true) = true :=
  ⟨invariant_of_pending, by decide +kernel⟩
theorem witness_ResetFromEveryState :
    (withEvent (pendingOn .ip 0 0) .assertReset).inbox = .assertReset :: [] := by decide +kernel
theorem witness_FirstStatusReadAfterReset :
    (assertReset State.reset).resetLine = true ∧
      ({ assertReset State.reset with inbox := [.releaseReset, rd 0 .status] } : State).inbox =
        .releaseReset :: rd (assertReset State.reset).params.desBase .status :: [] := by decide +kernel
theorem witness_InitialAndFinalPermutation :
    (pendingOn .fp 1 0).pending = some ⟨0x02, 1, 0⟩ := by decide +kernel
theorem witness_ExpansionResult :
    (pendingOn .e 0xFFFFFFFF 0).pending = some ⟨0x03, 0xFFFFFFFF, 0⟩ ∧ (0xFFFFFFFF : Word).toNat < 2 ^ 32 ∧
      (pendingOn .e 0x100000000 0).pending = some ⟨0x03, 0x100000000, 0⟩ ∧ 2 ^ 32 ≤ (0x100000000 : Word).toNat := by decide +kernel
theorem witness_PPermutationResults :
    (pendingOn .pinv 0xFFFFFFFF 0).pending = some ⟨0x06, 0xFFFFFFFF, 0⟩ ∧ (0xFFFFFFFF : Word).toNat < 2 ^ 32 ∧
      (pendingOn .pinv 0x100000000 0).pending = some ⟨0x06, 0x100000000, 0⟩ ∧ 2 ^ 32 ≤ (0x100000000 : Word).toNat := by decide +kernel
theorem witness_Pc2Result :
    (pendingOn .pc2 0xFFFFFFFFFFFFFF 0).pending = some ⟨0x09, 0xFFFFFFFFFFFFFF, 0⟩ ∧ (0xFFFFFFFFFFFFFF : Word).toNat < 2 ^ 56 ∧
      (pendingOn .pc2 0x100000000000000 0).pending = some ⟨0x09, 0x100000000000000, 0⟩ ∧ 2 ^ 56 ≤ (0x100000000000000 : Word).toNat := by decide +kernel
theorem witness_Pc1InverseResult :
    (pendingOn .pc1inv 0xFFFFFFFFFFFFFF 0).pending = some ⟨0x08, 0xFFFFFFFFFFFFFF, 0⟩ ∧ (0xFFFFFFFFFFFFFF : Word).toNat < 2 ^ 56 ∧
      (pendingOn .pc1inv 0x100000000000000 0).pending = some ⟨0x08, 0x100000000000000, 0⟩ ∧ 2 ^ 56 ≤ (0x100000000000000 : Word).toNat := by decide +kernel
theorem witness_Pc2InverseResult :
    (pendingOn .pc2inv 0xFFFFFFFFFFFF 0).pending = some ⟨0x0A, 0xFFFFFFFFFFFF, 0⟩ ∧ (0xFFFFFFFFFFFF : Word).toNat < 2 ^ 48 ∧
      (pendingOn .pc2inv 0x1000000000000 0).pending = some ⟨0x0A, 0x1000000000000, 0⟩ ∧ 2 ^ 48 ≤ (0x1000000000000 : Word).toNat := by decide +kernel
theorem witness_AllSboxesResult :
    (pendingOn .sboxes 0xFFFFFFFFFFFF 0).pending = some ⟨0x0C, 0xFFFFFFFFFFFF, 0⟩ ∧ (0xFFFFFFFFFFFF : Word).toNat < 2 ^ 48 ∧
      (pendingOn .sboxes 0x1000000000000 0).pending = some ⟨0x0C, 0x1000000000000, 0⟩ ∧ 2 ^ 48 ≤ (0x1000000000000 : Word).toNat := by decide +kernel
theorem witness_ExpansionInverseResult :
    (pendingOn .einv 1 0).pending = some ⟨0x04, 1, 0⟩ ∧
      2 ^ 48 ≤ (0x1000000000000 : Word).toNat ∧ (0xFFFFFFFFFFFF : Word).toNat < 2 ^ 48 ∧
      (∃ k ∈ listPairs, (1 : Word).getLsbD (48 - k.1) ≠ (1 : Word).getLsbD (48 - k.2)) ∧
      (∀ k ∈ listPairs, (0xFFFFFFFFFFFF : Word).getLsbD (48 - k.1) = (0xFFFFFFFFFFFF : Word).getLsbD (48 - k.2)) := by decide +kernel
theorem witness_Pc1Result :
    (pendingOn .pc1 1 0).pending = some ⟨0x07, 1, 0⟩ := by decide +kernel
theorem witness_SingleSboxResult :
    (pendingOn (.sbox 8) 63 0).pending = some ⟨0x80B, 63, 0⟩ ∧ (63 : Word).toNat < 64 ∧ 64 ≤ (64 : Word).toNat ∧
      ((0 < 1 ∨ 8 < 0) ∧ (9 < 1 ∨ 8 < 9)) ∧ (1 ≤ 1 ∧ 1 ≤ 8) ∧ (1 ≤ 8 ∧ 8 ≤ 8) := by decide +kernel
theorem witness_RotationResults :
    (pendingOn (.rotl 16) 0 0).pending = some ⟨0x100F, 0, 0⟩ ∧ (0xFFFFFFFFFFFFFF : Word).toNat < 2 ^ 56 ∧
      2 ^ 56 ≤ (0x100000000000000 : Word).toNat ∧ ((0 < 1 ∨ 16 < 0) ∧ (17 < 1 ∨ 16 < 17)) ∧ (1 ≤ 16 ∧ 16 ≤ 16) := by decide +kernel
theorem witness_PermutationLaws :
    (pendingOn .e 5 0).pending = some ⟨0x03, 5, 0⟩ ∧ (⟨0x03, 5, 0⟩ : Pending).a = (5 : Half).setWidth 64 := by decide +kernel
theorem witness_HalfExtractionResults :
    (pendingOn .lhalf 5 0).pending = some ⟨0x0D, 5, 0⟩ ∧ (⟨0x0D, 5, 0⟩ : Pending).a = (5 : Word).setWidth 64 := by decide +kernel
theorem witness_RotationsAreInverse :
    (1 ≤ 1 ∧ 1 ≤ 16) ∧ (1 ≤ 16 ∧ 16 ≤ 16) ∧ (pendingOn (.rotr 16) 5 0).pending = some ⟨0x1010, 5, 0⟩ := by decide +kernel
theorem witness_KeyScheduleResult :
    (pendingOn .ks 5 0).pending = some ⟨0x12, 5, 0⟩ ∧ (⟨0x12, 5, 0⟩ : Pending).a = 5 := by decide +kernel
theorem witness_KeyScheduleLaws :
    (0x0101010101010101 : Word) &&& 0xFEFEFEFEFEFEFEFE = 0 &&& 0xFEFEFEFEFEFEFEFE := by decide +kernel
theorem witness_RoundFunctionResult :
    (pendingOn .f 0xFFFFFFFFFFFF 0xFFFFFFFF).pending = some ⟨0x11, 0xFFFFFFFFFFFF, 0xFFFFFFFF⟩ ∧
      (0xFFFFFFFFFFFF : Word).toNat < 2 ^ 48 ∧ (0xFFFFFFFF : Word).toNat < 2 ^ 32 ∧
      2 ^ 48 ≤ (0x1000000000000 : Word).toNat ∧ 2 ^ 32 ≤ (0x100000000 : Word).toNat := by decide +kernel
theorem witness_EncipherResult :
    (pendingOn .enc 5 0).pending = some ⟨0x13, 5, 0⟩ ∧ (pendingOn .enc 5 0).ksv = false ∧
      (keyedOn .enc 5).pending = some ⟨0x13, 5, 0⟩ ∧ (keyedOn .enc 5).ksv = true := by decide +kernel
theorem witness_DecipherResult :
    (pendingOn .dec 5 0).pending = some ⟨0x14, 5, 0⟩ ∧ (pendingOn .dec 5 0).ksv = false ∧
      (keyedOn .dec 5).pending = some ⟨0x14, 5, 0⟩ ∧ (keyedOn .dec 5).ksv = true := by decide +kernel
theorem witness_DecipherUndoesEncipher :
    (keyedOn .dec 5).pending = some ⟨0x14, 5, 0⟩ ∧ (keyedOn .dec 5).ksv = true ∧
      (keyedOn .dec 5).rk = keySchedule 0x133457799BBCDFF1 := ⟨rfl, rfl, rfl⟩
theorem witness_EncipherComplement :
    (keyedOn .enc 5).pending = some ⟨0x13, 5, 0⟩ ∧ (keyedOn .enc 5).ksv = true ∧
      (keyedOn .enc 5).rk = keySchedule 0x133457799BBCDFF1 := ⟨rfl, rfl, rfl⟩
theorem witness_PreOutputGivesRound15 :
    (keyedOn .enc 7).pending = some ⟨0x13, 7, 0⟩ ∧ (keyedOn .enc 7).ksv = true := ⟨rfl, rfl⟩
theorem witness_RoundFunctionBitLocality :
    (0xFFFFFFFF : Word).toNat < 2 ^ 32 ∧ (1 ≤ 32 ∧ 32 ≤ 32) ∧
      (0x3F : RoundKey).extractLsb' (48 - 6 * boxOfBit.getD (32 - 1) 0) 6 =
        (0x0 : RoundKey).extractLsb' (48 - 6 * boxOfBit.getD (32 - 1) 0) 6 := by decide +kernel
/-- Row V10 of 95_test_vectors.md passes; a wrong triple does not. -/
theorem witness_SelfCheckResult :
    (pendingOn .check 0 0).pending = some ⟨0x15, 0, 0⟩ ∧
      (∀ t ∈ [(⟨0xFEDCBA9876543210, 0x0123456789ABCDEF, 0xED39D950FA74BCC4⟩ : KnownAnswer)], TriplePasses t) ∧
      (∃ t ∈ [(⟨0, 0, 0⟩ : KnownAnswer)], ¬ TriplePasses t) := by
  refine ⟨rfl, ?_, ⟨0, 0, 0⟩, by simp, ?_⟩
  · simp only [List.mem_singleton, forall_eq, triplePasses_iff]
    decide +kernel
  · rw [triplePasses_iff]
    decide +kernel
theorem witness_DefaultSelfCheckPasses :
    (pendingOn .check 0 0).pending = some ⟨0x15, 0, 0⟩ ∧
      (pendingOn .check 0 0).params.selfcheckSet =
        [⟨0x133457799BBCDFF1, 0x0123456789ABCDEF, 0x85E813540F0AB405⟩,
         ⟨0x0E329232EA6D0D73, 0x8787878787878787, 0x0000000000000000⟩,
         ⟨0x0123456789ABCDEF, 0x4E6F772069732074, 0x3FA40E8A984D4815⟩,
         ⟨0x0000000000000000, 0x0000000000000000, 0x8CA64DE9C1B123A7⟩,
         ⟨0xFFFFFFFFFFFFFFFF, 0xFFFFFFFFFFFFFFFF, 0x7359B2163E4EDC58⟩] := ⟨rfl, rfl⟩
theorem witness_ErrorsArePrecise :
    (pendingOn (.sbox 9) 0 0).pending = some ⟨0x90B, 0, 0⟩ ∧ (pendingOn (.sbox 9) 0 0).err = false ∧
      nextWith (exec (.sbox 9) (pendingOn (.sbox 9) 0 0)) (fun t => t.err) = true := by decide +kernel
theorem witness_CommandFrame :
    (pendingOn .ip 3 0).pending = some ⟨0x01, 3, 0⟩ ∧
      nextWith (exec .ip (pendingOn .ip 3 0)) (fun _ => true) = true := by decide +kernel
theorem witness_IssuedOperandsAreFixed :
    nextWith (exec .ip (pendingOn .ip 3 0)) (fun _ => true) = true := by decide +kernel
theorem witness_OnlyFReadsSecondOperand :
    Instr.ip ≠ .f := by decide
theorem witness_LegalWordIssues :
    (withEvent { State.reset with aWritten := true } (.write 0 8 0x01)).inbox = .write State.reset.params.desBase 8 0x01 :: [] ∧
      (withEvent { State.reset with aWritten := true } (.write 0 8 0x01)).ready = true ∧ decode 0x01 = .ok .ip ∧
      (withEvent { State.reset with aWritten := true } (.write 0 8 0x01)).aWritten = true := by decide +kernel
theorem witness_IllegalWordRaises :
    (withEvent State.reset (.write 0 8 0x16)).inbox = .write State.reset.params.desBase 8 0x16 :: [] ∧
      (withEvent State.reset (.write 0 8 0x16)).ready = true ∧ IllegalWord 0x16 :=
  ⟨rfl, by decide +kernel, .inr (.inl (by decide))⟩
theorem witness_IllegalWord_clauses :
    IllegalWord 0x0 ∧ IllegalWord 0x3F ∧ IllegalWord 0x41 ∧ IllegalWord 0x2001 ∧ IllegalWord 0x100000001 ∧
      IllegalWord 0x113 ∧ ¬ IllegalWord 0x1F0B := by
  refine ⟨?_, ?_, ?_, ?_, ?_, ?_, ?_⟩ <;> simp [IllegalWord]
theorem witness_BusyViolationDiscards :
    (withEvent (pendingOn .ip 0 0) (.write 0x18 8 9)).inbox = .write (State.reset.params.desBase + 0x18) 8 9 :: [] ∧
      (pendingOn .ip 0 0).resetLine = false ∧ (pendingOn .ip 0 0).busy = true ∧
      (pendingOn .ip 0 0).pending = some ⟨0x01, 0, 0⟩ ∧ 0x18 ∈ [0x00, 0x10, 0x18] := by decide +kernel
theorem witness_BusyViolationDiscards_read :
    (withEvent (pendingOn .ip 0 0) (.read 0xF8 8)).inbox = .read (State.reset.params.desBase + 8 * 31) 8 :: [] ∧
      31 < 32 ∧ (pendingOn .ip 0 0).busy = true := by decide +kernel
theorem witness_OperandWritesAreStored :
    State.reset.resetLine = false ∧ State.reset.busy = false ∧
      (withEvent State.reset (.write 0x10 8 9)).inbox = .write (State.reset.params.desBase + 0x10) 8 9 :: [] ∧
      (withEvent State.reset (.write 0x18 8 9)).inbox = .write (State.reset.params.desBase + 0x18) 8 9 :: [] := by
  decide +kernel
theorem witness_ErrorStateIgnoresCommands :
    (withEvent (errorEntry .width 3 State.reset) (.write 0 8 1)).inbox = .write State.reset.params.desBase 8 1 :: [] ∧
      (errorEntry .width 3 State.reset).busy = false ∧ (errorEntry .width 3 State.reset).err = true := by
  decide +kernel
theorem witness_ReadOnlyWritesAreIgnored :
    (withEvent State.reset (.write 0xF8 8 1)).inbox = .write (State.reset.params.desBase + 8 * 31) 8 1 :: [] ∧
      (31 = 1 ∨ (4 ≤ 31 ∧ 31 ≤ 31)) ∧ (4 = 1 ∨ (4 ≤ 4 ∧ 4 ≤ 31)) ∧ (1 = 1 ∨ (4 ≤ 1 ∧ 1 ≤ 31)) := by decide +kernel
theorem witness_ReadsReturnRegisters :
    (withEvent State.reset (.read 0x08 8)).inbox = .read (State.reset.params.desBase + 0x08) 8 :: [] ∧
      State.reset.resetLine = false ∧ ReadsAs State.reset 0x08 (statusWord State.reset) ∧ ReadsAs State.reset 0x00 0 :=
  ⟨rfl, rfl, .inr (.inl ⟨rfl, rfl⟩), .inl ⟨rfl, rfl⟩⟩
theorem witness_ReadsReturnRegisters_operands :
    ReadsAs (pendingOn .ip 4 6) 0x10 4 ∧ ReadsAs (pendingOn .ip 4 6) 0x18 6 :=
  ⟨.inr (.inr (.inl ⟨rfl, rfl, rfl⟩)), .inr (.inr (.inr (.inl ⟨rfl, rfl, rfl⟩)))⟩
theorem witness_ReadsReturnRegisters_result :
    ReadsAs { State.reset with r := 9, rWritten := true } 0x20 9 :=
  .inr (.inr (.inr (.inr (.inl ⟨rfl, rfl, rfl, rfl⟩))))
theorem witness_ReadsReturnRegisters_last_key :
    ReadsAs { State.reset with ksv := true } 0xF8 0 :=
  .inr (.inr (.inr (.inr (.inr ⟨15, rfl, rfl, rfl, by decide⟩))))
theorem witness_OpenReadsReturnDraws :
    (withEvent State.reset (.read 0x78 8)).inbox = .read (State.reset.params.desBase + 0x78) 8 :: [] ∧
      State.reset.resetLine = false ∧ ReadsOpen State.reset 0x28 ∧ ReadsOpen State.reset 0x78 :=
  ⟨rfl, rfl, .inl ⟨5, by decide, by decide, rfl⟩, .inl ⟨15, by decide, by decide, rfl⟩⟩
theorem witness_OpenReadsReturnDraws_registers :
    ReadsOpen State.reset 0x10 ∧ ReadsOpen State.reset 0x18 ∧ ReadsOpen (pendingOn .ip 0 0) 0x20 ∧
      ReadsOpen State.reset 0x80 ∧ ReadsOpen State.reset 0xF8 :=
  ⟨.inr (.inl ⟨rfl, rfl⟩), .inr (.inr (.inl ⟨rfl, rfl⟩)), .inr (.inr (.inr (.inl ⟨rfl, .inr rfl⟩))),
    .inr (.inr (.inr (.inr ⟨0, rfl, .inl rfl⟩))), .inr (.inr (.inr (.inr ⟨15, rfl, .inl rfl⟩)))⟩
theorem witness_ReadsHaveNoSideEffect :
    (withEvent State.reset (.read 0x08 8)).inbox = .read 0x08 8 :: [] ∧
      nextWith (step (withEvent State.reset (.read 0x08 8))) (fun _ => true) = true := by decide +kernel
theorem witness_NarrowOrMisalignedIsRefused :
    255 < 256 ∧ (4 ≠ 8 ∨ 8 % 8 ≠ 0) ∧ (8 ≠ 8 ∨ 255 % 8 ≠ 0) ∧
      (withEvent State.reset (.read 0xFF 8)).inbox = .read (State.reset.params.desBase + 255) 8 :: [] ∧
      (withEvent State.reset (.write 0x08 4 0)).inbox = .write (State.reset.params.desBase + 8) 4 0 :: [] := by
  decide +kernel
theorem witness_AccessOutsideWindowFaults :
    (0x100 < State.reset.params.desBase ∨ State.reset.params.desBase + 256 ≤ 0x100) ∧
      (withEvent State.reset (.read 0x100 8)).inbox = .read 0x100 8 :: [] ∧
      (withEvent State.reset (.write 0x100 8 0)).inbox = .write 0x100 8 0 :: [] := by decide +kernel
theorem witness_UnwrittenOperandIsRecorded :
    (withEvent State.reset (.write 0 8 0x01)).inbox = .write State.reset.params.desBase 8 0x01 :: [] ∧
      (withEvent State.reset (.write 0 8 0x01)).ready = true ∧ decode 0x01 = .ok .ip ∧
      (Instr.ip ≠ .check ∧ State.reset.aWritten = false) ∧ (Instr.f = .f ∧ State.reset.bWritten = false) := by
  decide +kernel
theorem witness_OnlyCmdWriteIssues :
    State.reset.pending = none ∧
      nextWith (step (withEvent State.reset (.write 0 8 0x15))) (fun t => t.pending.isSome) = true := by decide +kernel
theorem invariant_of_error : (errorEntry .width 3 State.reset).Inv := by
  constructor <;> simp [State.reset, defaultParams]
theorem witness_ErrorIsStickyUntilReset :
    (errorEntry .width 3 State.reset).Inv ∧ (errorEntry .width 3 State.reset).err = true ∧
      nextWith (step (errorEntry .width 3 State.reset)) (fun _ => true) = true :=
  ⟨invariant_of_error, rfl, by decide +kernel⟩
theorem witness_OnlyKsWritesRoundKeys :
    (pendingOn .ks 0 0).Inv ∧
      nextWith (step (pendingOn .ks 0 0)) (fun t => t.ksv != (pendingOn .ks 0 0).ksv) = true :=
  ⟨invariant_of_pending_ks, by decide +kernel⟩
theorem witness_EveryCommandCompletes :
    (pendingOn .ip 0 0).Inv ∧ ∀ ev ∈ [wr 0 .a 1, rd 0 (.rk 15), .engine, .assertReset, .releaseReset],
      AcceptedEvent (pendingOn .ip 0 0).params.desBase ev := by
  refine ⟨invariant_of_pending, ?_⟩
  simp only [List.mem_cons, List.not_mem_nil, or_false, forall_eq_or_imp, forall_eq, AcceptedEvent, wr, rd, true_and,
    and_true]
  exact ⟨⟨2, by decide, rfl⟩, ⟨31, by decide, rfl⟩⟩
theorem witness_WaitLoopEnds :
    (Instr.sbox 31).wellFormed = true ∧
      ({ State.reset with inbox := wr 0 .a 7 :: (runEvents 0 3 (.sbox 31) ++ []) } : State).ready = true ∧
      ({ State.reset with inbox := wr 0 .a 7 :: (runEvents 0 3 (.sbox 31) ++ []) } : State).inbox =
        wr State.reset.params.desBase .a 7 :: (runEvents State.reset.params.desBase 3 (.sbox 31) ++ []) := by
  decide +kernel

end Sys2Proof.Tests
end

/-! Proofs of the family 20_memory.md: the register window (R50 to R63) and what a completion touches. -/

namespace Sys2Proof.Machine

open Sys2Proof.Spec

/-! ### Read-only and unmapped slots (R51, R54, R55) -/

/-- STATUS, R, RK and the unmapped slots stand at the slot numbers 1 and 4.. of the window (R51). -/
theorem slotAt_readOnly {n : Nat} (h : n = 1 ∨ 4 ≤ n) :
    slotAt (8 * n) ≠ .cmd ∧ slotAt (8 * n) ≠ .a ∧ slotAt (8 * n) ≠ .b := by
  have hn : n = 1 ∨ n = 4 ∨ ∃ m, n = m + 5 := by
    rcases Nat.lt_or_ge n 5 with h5 | h5
    · omega
    · exact .inr (.inr ⟨n - 5, by omega⟩)
  rw [slotAt, Nat.mul_div_cancel_left n (by omega)]
  rcases hn with rfl | rfl | ⟨m, rfl⟩
  · simp
  · simp
  · by_cases hrk : 11 ≤ m <;> simp [hrk]

/-- An accepted host write at slot number `n` of the window is the write to that slot. -/
theorem hostWrite_at {n : Nat} (hn : n < 32) (v : Word) (s : State) :
    hostWrite (s.params.desBase + 8 * n) 8 v s = .next (writeSlot (slotAt (8 * n)) v s) :=
  access_at hn _

/-- Settles O46: the write reaches a slot that `writeSlot` ignores. -/
theorem readOnlyWritesAreIgnored : Obligations.ReadOnlyWritesAreIgnored := by
  intro s n v rest hinbox hn
  obtain ⟨hcmd, ha, hb⟩ := slotAt_readOnly (n := n) (by omega)
  calc step s
      = hostWrite (s.params.desBase + 8 * n) 8 v { s with inbox := rest } := step_of_event hinbox
    _ = .next (writeSlot (slotAt (8 * n)) v { s with inbox := rest }) := hostWrite_at (by omega) v _
    _ = .next { s with inbox := rest } := by rw [writeSlot_ignored hcmd ha hb]

/-! ### A completion does not look at A and B (R35, R62) -/

/-- The state with other values in A and B. -/
def withOperands (x y : Word) (s : State) : State := { s with a := x, b := y }

/-- What Complete performs neither looks at the registers A and B nor writes them. -/
def OperandBlind (body : Pending → State → State) : Prop :=
  ∀ (p : Pending) (s : State) (x y : Word), body p (withOperands x y s) = withOperands x y (body p s)

/-- Complete with an operand-blind body commutes with a change of A and B. -/
theorem complete_withOperands {body : Pending → State → State} (hb : OperandBlind body) {s t : State}
    (h : complete s body = .next t) (x y : Word) :
    complete (withOperands x y s) body = .next (withOperands x y t) := by
  rcases complete_cases h with ⟨hp, rfl⟩ | ⟨p, hp, rfl⟩
  · exact complete_of_idle (s := withOperands x y t) hp body
  · rw [complete_of_pending (s := withOperands x y s) hp, ← hb]
    rfl

theorem operandBlind_raiseErr (code : ErrCode) : OperandBlind (raiseErr code) := fun _ _ _ _ => rfl

/-- A choice that A and B have no part in, between two operand-blind bodies. -/
theorem operandBlind_ite {c : Pending → State → Bool} {f g : Pending → State → State}
    (hc : ∀ p s x y, c p (withOperands x y s) = c p s) (hf : OperandBlind f) (hg : OperandBlind g) :
    OperandBlind fun p s => if c p s then f p s else g p s := by
  intro p s x y
  simp only [hc]
  split
  · exact hf p s x y
  · exact hg p s x y

/-- The width check of a captured operand, before an operand-blind body. -/
theorem operandBlind_withWidth {W : Nat} {v : Pending → Word} {body : BitVec W → Pending → State → State}
    (hb : ∀ w, OperandBlind (body w)) :
    OperandBlind fun p s => withWidth W (v p) p s fun w => body w p s :=
  operandBlind_ite (fun _ _ _ _ => rfl) (fun p s x y => hb _ p s x y) (operandBlind_raiseErr .width)

theorem operandBlind_unary {W n : Nat} (fn : BitVec W → BitVec n) : OperandBlind (unary W fn) :=
  operandBlind_withWidth fun _ _ _ _ _ => rfl

/-- A command with an index: its range check comes first (R216). -/
theorem operandBlind_indexed {W n : Nat} (bad : Prop) [Decidable bad] (code : ErrCode) (fn : BitVec W → BitVec n) :
    OperandBlind fun p s => if bad then raiseErr code p s else unary W fn p s := by
  by_cases hbad : bad
  · simpa only [if_pos hbad] using operandBlind_raiseErr code
  · simpa only [if_neg hbad] using operandBlind_unary fn

/-- Every command is Complete (R34) with a body that works on the captured operands alone (R35). -/
theorem exec_eq_complete (i : Instr) : ∃ body, (∀ s, exec i s = complete s body) ∧ OperandBlind body := by
  cases i with
  | ip => exact ⟨_, fun _ => rfl, operandBlind_unary permIP⟩
  | fp => exact ⟨_, fun _ => rfl, operandBlind_unary permFP⟩
  | e => exact ⟨_, fun _ => rfl, operandBlind_unary expandE⟩
  | einv =>
    refine ⟨_, fun _ => by rw [exec, execEinv], ?_⟩
    refine operandBlind_withWidth fun v => ?_
    exact operandBlind_ite (fun _ _ _ _ => rfl) (operandBlind_raiseErr .eMismatch) fun _ _ _ _ => rfl
  | p => exact ⟨_, fun _ => rfl, operandBlind_unary permP⟩
  | pinv => exact ⟨_, fun _ => rfl, operandBlind_unary permPINV⟩
  | pc1 => exact ⟨_, fun _ => rfl, operandBlind_unary selectPC1⟩
  | pc1inv => exact ⟨_, fun _ => rfl, operandBlind_unary inversePC1⟩
  | pc2 => exact ⟨_, fun _ => rfl, operandBlind_unary selectPC2⟩
  | pc2inv => exact ⟨_, fun _ => rfl, operandBlind_unary inversePC2⟩
  | sbox idx => exact ⟨_, fun _ => rfl, operandBlind_indexed _ .sboxIndex (sbox idx)⟩
  | sboxes => exact ⟨_, fun _ => rfl, operandBlind_unary sboxes⟩
  | lhalf => exact ⟨_, fun _ => rfl, operandBlind_unary leftHalf⟩
  | rhalf => exact ⟨_, fun _ => rfl, operandBlind_unary rightHalf⟩
  | rotl idx => exact ⟨_, fun _ => rfl, operandBlind_indexed _ .roundIndex (rotlState (amt idx))⟩
  | rotr idx => exact ⟨_, fun _ => rfl, operandBlind_indexed _ .roundIndex (rotrState (amt idx))⟩
  | f =>
    refine ⟨_, fun _ => by rw [exec, execF], ?_⟩
    refine operandBlind_withWidth fun rk => operandBlind_withWidth fun half => ?_
    exact fun _ _ _ _ => rfl
  | ks =>
    refine ⟨_, fun _ => by rw [exec, execKs], ?_⟩
    exact fun _ _ _ _ => rfl
  | enc =>
    refine ⟨_, fun _ => by rw [exec, execEnc], ?_⟩
    exact operandBlind_ite (fun _ _ _ _ => rfl) (fun _ _ _ _ => rfl) (operandBlind_raiseErr .noSchedule)
  | dec =>
    refine ⟨_, fun _ => by rw [exec, execDec], ?_⟩
    exact operandBlind_ite (fun _ _ _ _ => rfl) (fun _ _ _ _ => rfl) (operandBlind_raiseErr .noSchedule)
  | check =>
    refine ⟨_, fun _ => by rw [exec, execCheck], ?_⟩
    exact operandBlind_ite (fun _ _ _ _ => rfl) (fun _ _ _ _ => rfl) fun _ _ _ _ => rfl

/-- Settles O38: every command is Complete with an operand-blind body. -/
theorem issuedOperandsAreFixed : Obligations.IssuedOperandsAreFixed := by
  intro i s t x y h
  obtain ⟨body, hexec, hblind⟩ := exec_eq_complete i
  rw [hexec] at h ⊢
  exact complete_withOperands hblind h x y

/-! ### A command has one word (R71, R76) -/

/-- The OPC that selects a command is that command's (R72). -/
theorem toNat_opcode_of_commandOf {opc idx : Nat} {i : Instr} (h : commandOf opc idx = some i) :
    (opcode i).toNat = opc := by
  unfold commandOf at h
  split at h <;> cases h <;> rfl

/-- A bit outside OPC and IDX is 0 where no reserved bit is set (R70, R71). -/
theorem getLsbD_of_reservedSet_eq_false {v : Word} (h : reservedSet v = false) {k : Nat} (hopc : 6 ≤ k)
    (hidx : k < 8 ∨ 13 ≤ k) : v.getLsbD k = false := by
  simp only [reservedSet, Bool.or_eq_false_iff, bne_eq_false_iff_eq] at h
  obtain ⟨⟨hhigh, hlow⟩, hmid⟩ := h
  have clear : ∀ {start len : Nat}, v.extractLsb' start len = 0 → start ≤ k → k < start + len →
      v.getLsbD k = false := by
    intro start len hz hs hl
    have hk : (v.extractLsb' start len).getLsbD (k - start) = false := by simp [hz]
    rw [BitVec.getLsbD_extractLsb', Nat.add_sub_cancel' hs] at hk
    simpa [Nat.sub_lt_left_of_lt_add hs hl] using hk
  rcases hidx with h8 | h13
  · exact clear hlow hopc h8
  · rcases Nat.lt_or_ge k 32 with h32 | h32
    · exact clear hmid h13 h32
    · rcases Nat.lt_or_ge k 64 with h64 | h64
      · exact clear hhigh h32 h64
      · exact BitVec.getLsbD_of_ge v k h64

/-- A word whose reserved bits are clear is its IDX and OPC fields (R71). -/
theorem word_eq_fields {v : Word} (h : reservedSet v = false) :
    v = (BitVec.ofNat 64 (idxOf v).toNat <<< 8) ||| (opcOf v).setWidth 64 := by
  apply BitVec.eq_of_getLsbD_eq
  intro k hk
  rw [BitVec.ofNat_toNat]
  simp only [opcOf, idxOf, BitVec.getLsbD_or, BitVec.getLsbD_shiftLeft, BitVec.getLsbD_setWidth,
    BitVec.getLsbD_extractLsb']
  by_cases hopc : k < 6
  · have h8 : k < 8 := by omega
    simp [hopc, h8, hk]
  · by_cases hidx : 8 ≤ k ∧ k < 13
    · have h5 : k - 8 < 5 := by omega
      have h64 : k - 8 < 64 := by omega
      simp [hopc, hidx.1, h5, h64, hk]
    · have hout : k < 8 ∨ 13 ≤ k := by omega
      rw [getLsbD_of_reservedSet_eq_false h (by omega) hout]
      have h5 : k < 8 ∨ ¬ k - 8 < 5 := by omega
      rcases h5 with h5 | h5 <;> simp [hopc, h5]

/-- A word that decodes to a command is that command's word. -/
theorem eq_encode_of_decode {v : Word} {i : Instr} (h : decode v = .ok i) : v = encode i := by
  unfold decode at h
  split at h
  · cases h
  next hres =>
    split at h
    · cases h
    next i' hi' =>
      split at h
      next hidx =>
        obtain rfl : i' = i := by simpa using h
        have hopc : opcode i' = opcOf v := BitVec.eq_of_toNat_eq (toNat_opcode_of_commandOf hi')
        rw [encode, hidx, hopc]
        exact word_eq_fields (by simpa using hres)
      · cases h

/-! ### Who writes the round-key file (R63) -/

/-- RK and KSV are as they were. -/
def KeepsRoundKeys (s t : State) : Prop := t.rk = s.rk ∧ t.ksv = s.ksv

theorem busyViolation_keepsRoundKeys (s : State) : KeepsRoundKeys s (busyViolation s) := by
  unfold busyViolation
  split <;> exact ⟨rfl, rfl⟩

theorem writeCmd_keepsRoundKeys (v : Word) (s : State) : KeepsRoundKeys s (writeCmd v s) := by
  rcases writeCmd_cases v s with ⟨_, h⟩ | ⟨_, _, h⟩ | ⟨_, _, _, h⟩ | ⟨i, _, _, _, _, h⟩ <;> rw [h]
  · exact busyViolation_keepsRoundKeys s
  all_goals exact ⟨rfl, rfl⟩

theorem writeA_keepsRoundKeys (v : Word) (s : State) : KeepsRoundKeys s (writeA v s) := by
  unfold writeA
  split
  · exact busyViolation_keepsRoundKeys s
  · exact ⟨rfl, rfl⟩

theorem writeB_keepsRoundKeys (v : Word) (s : State) : KeepsRoundKeys s (writeB v s) := by
  unfold writeB
  split
  · exact busyViolation_keepsRoundKeys s
  · exact ⟨rfl, rfl⟩

/-- No host write reaches the round-key file, not even one to RK (R55). -/
theorem writeSlot_keepsRoundKeys (slot : Slot) (v : Word) (s : State) : KeepsRoundKeys s (writeSlot slot v s) := by
  unfold writeSlot
  split
  · exact ⟨rfl, rfl⟩
  · cases slot with
    | cmd => exact writeCmd_keepsRoundKeys v s
    | a => exact writeA_keepsRoundKeys v s
    | b => exact writeB_keepsRoundKeys v s
    | status | r | unmapped | rk _ => exact ⟨rfl, rfl⟩

theorem readSlot_keepsRoundKeys (slot : Slot) (s : State) : KeepsRoundKeys s (readSlot slot s) := by
  obtain ⟨v, d, h⟩ := readSlot_eq slot s
  rw [h]
  exact ⟨rfl, rfl⟩

/-- An access whose body keeps the round-key file keeps it. -/
theorem access_keepsRoundKeys {s t : State} {addr size : Nat} {body : Slot → State}
    (hbody : ∀ slot, KeepsRoundKeys s (body slot)) (h : access s addr size body = .next t) : KeepsRoundKeys s t := by
  obtain ⟨_, _, rfl⟩ := access_eq_next_iff.1 h
  exact hbody _

/-- A KS, whose word is 0x12 (R72), was pending in `s`, and `t` holds the schedule it writes for its key (R163). -/
def KsCompleted (s t : State) : Prop :=
  ∃ p, s.pending = some p ∧ p.word = 0x12 ∧ KsWrites p.a t.rk ∧ t.ksv = true

/-- The model's schedule is the one KS writes (R163). -/
theorem ksWrites_keySchedule (key : Word) : KsWrites key (keySchedule key) := by
  rintro s p hp rfl
  rw [exec, execKs, complete_of_pending hp]
  exact ⟨_, rfl⟩

/-- A completed command keeps the round-key file, or it is KS and has written its schedule. -/
theorem Completes.roundKeys {i : Instr} {p : Pending} {s t : State} (h : Completes i p s t) :
    KeepsRoundKeys s t ∨ (i = .ks ∧ t.rk = keySchedule p.a ∧ t.ksv = true) := by
  cases h with
  | result v d _ _ ht => subst ht; exact .inl ⟨rfl, rfl⟩
  | error code _ _ _ ht => subst ht; exact .inl ⟨rfl, rfl⟩
  | schedule hi ht => obtain ⟨d, rfl⟩ := ht; exact .inr ⟨hi, rfl, rfl⟩
  | checkPass _ _ ht => obtain ⟨d, rfl⟩ := ht; exact .inl ⟨rfl, rfl⟩
  | checkFail _ _ ht => subst ht; exact .inl ⟨rfl, rfl⟩

/-- The engine's turn keeps the round-key file, or it completed a KS. -/
theorem engineTurn_roundKeys {s t : State} (h : engineTurn s = .next t) : KeepsRoundKeys s t ∨ KsCompleted s t := by
  unfold engineTurn at h
  split at h
  · cases h
    exact .inl ⟨rfl, rfl⟩
  next p hp =>
    split at h
    next i hd =>
      obtain ⟨u, hu, hc⟩ := exec_completes hp i
      obtain rfl : u = t := by rw [hu] at h; cases h; rfl
      refine hc.roundKeys.imp_right ?_
      rintro ⟨rfl, hrk, hksv⟩
      exact ⟨p, hp, eq_encode_of_decode hd, hrk ▸ ksWrites_keySchedule p.a, hksv⟩
    · cases h

/-- One event keeps the round-key file, or it changes the reset input, or the engine completed a KS. -/
theorem handle_roundKeys {ev : Event} {s t : State} (h : handle ev s = .next t) :
    KeepsRoundKeys s t ∨ ev = .assertReset ∨ (s.resetLine = true ∧ ev = .releaseReset) ∨
      (ev = .engine ∧ KsCompleted s t) := by
  cases ev with
  | write addr size v => exact .inl (access_keepsRoundKeys (fun slot => writeSlot_keepsRoundKeys slot v s) h)
  | read addr size => exact .inl (access_keepsRoundKeys (fun slot => readSlot_keepsRoundKeys slot s) h)
  | engine => exact (engineTurn_roundKeys h).imp_right fun hks => .inr (.inr ⟨rfl, hks⟩)
  | assertReset => exact .inr (.inl rfl)
  | releaseReset =>
    cases hline : s.resetLine with
    | true => exact .inr (.inr (.inl ⟨rfl, rfl⟩))
    | false =>
      obtain rfl : s = t := by simpa [handle, hline] using h
      exact .inl ⟨rfl, rfl⟩

/-- Settles O55: a step that changes the round-key file is one of the other three events of `handle_roundKeys`. This holds
from every state; the invariant is not needed. -/
theorem onlyKsWritesRoundKeys : Obligations.OnlyKsWritesRoundKeys := by
  intro s t _ hstep hchange
  have hkeeps : ¬ KeepsRoundKeys s t := fun ⟨hrk, hksv⟩ => hchange.elim (· hrk) (· hksv)
  cases hinbox : s.inbox with
  | nil =>
    rw [step_of_no_event hinbox] at hstep
    obtain ⟨p, hp, hword, hks⟩ := (engineTurn_roundKeys hstep).resolve_left hkeeps
    exact .inr (.inr ⟨p, hp, hword, .inl rfl, hks⟩)
  | cons ev rest =>
    rw [step_of_event hinbox] at hstep
    rcases (handle_roundKeys hstep).resolve_left hkeeps with rfl | ⟨hline, rfl⟩ | ⟨rfl, p, hp, hword, hks⟩
    · exact .inl ⟨rest, rfl⟩
    · exact .inr (.inl ⟨hline, rest, rfl⟩)
    · exact .inr (.inr ⟨p, hp, hword, .inr ⟨rest, rfl⟩, hks⟩)

end Sys2Proof.Machine

/-! Proofs of the family 30_encoding.md: command words by number (R71, R75, R82). -/

namespace Sys2Proof.Machine

open Sys2Proof.Spec

/-! ### A command's own word, by number (R71, R72) -/

/-- IDX is a 5-bit field, so a command that a word decodes to has an index below 32. -/
theorem wellFormed_of_decode {v : Word} {i : Instr} (h : decode v = .ok i) : i.wellFormed = true := by
  unfold decode at h
  split at h
  · cases h
  · split at h
    · cases h
    next i' _ =>
      split at h
      next hidx =>
        obtain rfl : i' = i := by simpa using h
        have hlt : (idxOf v).toNat < 32 := (idxOf v).isLt
        simpa [Instr.wellFormed, hidx] using hlt
      · cases h

/-- IDX stands 8 bits up, above the 6 bits of OPC, so the two fields add up without overlap (R71). -/
theorem toNat_encode {i : Instr} (h : i.wellFormed = true) :
    (encode i).toNat = 2 ^ 8 * i.index + (opcode i).toNat := by
  have hidx : i.index < 32 := by simpa [Instr.wellFormed] using h
  have hopc : (opcode i).toNat < 2 ^ 6 := (opcode i).isLt
  have hshift : i.index <<< 8 < 2 ^ 64 := by rw [Nat.shiftLeft_eq]; omega
  calc (encode i).toNat
      = i.index <<< 8 ||| (opcode i).toNat := by
        simp only [encode, BitVec.toNat_or, BitVec.toNat_shiftLeft, BitVec.toNat_ofNat, BitVec.toNat_setWidth]
        rw [Nat.mod_eq_of_lt (show i.index < 2 ^ 64 by omega), Nat.mod_eq_of_lt hshift,
          Nat.mod_eq_of_lt (show (opcode i).toNat < 2 ^ 64 by omega)]
    _ = 2 ^ 8 * i.index + (opcode i).toNat := by
        rw [← Nat.shiftLeft_add_eq_or_of_lt (show (opcode i).toNat < 2 ^ 8 by omega), Nat.shiftLeft_eq, Nat.mul_comm]

/-- The OPCs of the 21 commands lie in 0x01..0x15 (R72). -/
theorem toNat_opcode_mem_range (i : Instr) : 1 ≤ (opcode i).toNat ∧ (opcode i).toNat ≤ 0x15 := by
  cases i <;> simp [opcode]

/-- SBOX, ROTL and ROTR alone carry an index (R73, R74). -/
theorem index_eq_zero_or_opcode_mem (i : Instr) :
    i.index = 0 ∨ (opcode i).toNat ∈ [0x0B, 0x0F, 0x10] := by
  cases i with
  | sbox _ | rotl _ | rotr _ => exact .inr (by simp [opcode])
  | _ => exact .inl rfl

/-! ### Illegal words (R75) -/

/-- The word of a well-formed command meets no clause of R75. -/
theorem not_illegalWord_encode {i : Instr} (h : i.wellFormed = true) : ¬ IllegalWord (encode i) := by
  have hidx : i.index < 32 := by simpa [Instr.wellFormed] using h
  obtain ⟨hpos, hle⟩ := toNat_opcode_mem_range i
  have hopc : (encode i).toNat % 64 = (opcode i).toNat := by rw [toNat_encode h]; omega
  have hfield : (encode i).toNat / 256 % 32 = i.index := by rw [toNat_encode h]; omega
  rintro (hzero | hbig | hlow | hhigh | ⟨hset, hnot⟩)
  · omega
  · omega
  · rw [toNat_encode h] at hlow; omega
  · rw [toNat_encode h] at hhigh; omega
  · rw [hfield] at hset
    rw [hopc] at hnot
    exact (index_eq_zero_or_opcode_mem i).elim hset hnot

/-- A word that meets a clause of R75 selects no command: it would be that command's own word. -/
theorem legal_eq_false_of_illegalWord {v : Word} (h : IllegalWord v) : legal v = false := by
  cases hd : decode v with
  | error _ => rw [legal, hd]
  | ok i =>
    rw [eq_encode_of_decode hd] at h
    exact absurd h (not_illegalWord_encode (wellFormed_of_decode hd))

/-! ### Writes to CMD (R34, R75) -/

/-- What `State.ready` says, field by field. -/
theorem ready_iff {s : State} :
    s.ready = true ↔ s.pending = none ∧ s.busy = false ∧ s.err = false ∧ s.resetLine = false := by
  simp [State.ready, and_assoc]

/-- A host write to CMD while reset is released. -/
theorem hostWrite_cmd {s : State} (h : s.resetLine = false) (v : Word) :
    hostWrite s.params.desBase 8 v s = .next (writeCmd v s) := by
  have hslot : writeSlot .cmd v s = writeCmd v s := by simp [writeSlot, h]
  rw [← hslot]
  exact hostWrite_at (n := 0) (by omega) v s

/-- An idle block without error takes an illegal word as the error entry of ILLEGAL_CMD with that word's OPC (R75, R212). -/
theorem writeCmd_of_illegal {s : State} {v : Word} (hbusy : s.busy = false) (herr : s.err = false)
    (h : legal v = false) :
    writeCmd v s = errorEntry .illegalCmd (opcOf v) { s with cmd := v, done := false } := by
  rcases writeCmd_cases v s with ⟨hb, _⟩ | ⟨_, he, _⟩ | ⟨_, _, _, hw⟩ | ⟨_, _, _, _, hl, _⟩
  · simp [hbusy] at hb
  · simp [herr] at he
  · exact hw
  · simp [h] at hl

/-- Settles O2: the decoder is evaluated on each of the six words. -/
theorem sampleCommandWordsDecode : Obligations.SampleCommandWordsDecode := by
  refine ⟨?_, ?_, ?_, ?_, ?_, ?_⟩ <;> decide

/-- Settles O42: the word is not legal, so the write is the error entry; BUSY, which that entry clears, was 0 before. -/
theorem illegalWordRaises : Obligations.IllegalWordRaises := by
  intro s v rest hinbox hready hword
  obtain ⟨_, hbusy, herr, hreset⟩ := ready_iff.1 hready
  calc step s
      = hostWrite s.params.desBase 8 v { s with inbox := rest } := step_of_event hinbox
    _ = .next (writeCmd v { s with inbox := rest }) := hostWrite_cmd (s := { s with inbox := rest }) hreset v
    _ = .next (errorEntry .illegalCmd (opcOf v) { s with inbox := rest, cmd := v, done := false }) := by
        rw [writeCmd_of_illegal (s := { s with inbox := rest }) hbusy herr (legal_eq_false_of_illegalWord hword)]
    _ = _ := by simp only [errorEntry, opcOf, hbusy]

end Sys2Proof.Machine


/-! Proofs of the family 41_permutations.md: the permutation network (R100 to R119). -/

namespace Sys2Proof.Machine

open Sys2Proof.Spec

/-! ### Commands of one operand (R100, R101) -/

/-- A command of one operand that is not too wide completes with its result. -/
theorem complete_unary_of_lt {W n : Nat} {s : State} {p : Pending} (hp : s.pending = some p)
    (h : p.a.toNat < 2 ^ W) (fn : BitVec W → BitVec n) :
    complete s (unary W fn) = .next (resultState s ((fn (p.a.setWidth W)).setWidth 64)) := by
  rw [complete_of_pending hp, unary_of_fits ((fits_iff W p.a).2 h)]
  rfl

/-- The width check fails on an operand at or above `2^W` (R14). -/
theorem fits_eq_false {W : Nat} {v : Word} (h : 2 ^ W ≤ v.toNat) : fits W v = false :=
  Bool.eq_false_iff.2 fun hf => absurd ((fits_iff W v).1 hf) (Nat.not_lt.2 h)

/-- A command of one operand that is too wide ends in WIDTH. -/
theorem complete_unary_of_ge {W n : Nat} {s : State} {p : Pending} (hp : s.pending = some p)
    (h : 2 ^ W ≤ p.a.toNat) (fn : BitVec W → BitVec n) :
    complete s (unary W fn) = .next (errorState s p .width) := by
  rw [complete_of_pending hp, unary_of_wide (fits_eq_false h)]
  rfl

/-- A command that selects from a checked operand by a full table. -/
theorem selectCommand_of_unary {i : Instr} {word : Word} {W n : Nat} {T : List Nat} (hword : decode word = .ok i)
    (hlen : T.length = n) (hexec : ∀ s, exec i s = complete s (unary W (select n T))) :
    SelectCommand i word W n T := by
  refine ⟨hword, fun s p hp => ⟨fun hlt => ?_, fun hge => ?_⟩⟩
  · exact ⟨select n T (p.a.setWidth W), selects_select T hlen _, (hexec s).trans (complete_unary_of_lt hp hlt _)⟩
  · exact (hexec s).trans (complete_unary_of_ge hp hge _)

/-- A command that selects from all 64 bits of its operand: no operand is too wide (R78). -/
theorem selectCommand64_of_unary {i : Instr} {word : Word} {n : Nat} {T : List Nat} (hword : decode word = .ok i)
    (hlen : T.length = n) (hexec : ∀ s, exec i s = complete s (unary 64 (select n T))) :
    SelectCommand64 i word n T := by
  refine ⟨hword, fun s p hp => ⟨select n T p.a, selects_select T hlen _, ?_⟩⟩
  rw [hexec, complete_unary_of_lt hp p.a.isLt, BitVec.setWidth_eq]

/-- Settles O11: both commands select from all 64 bits of A, and their tables have 64 entries. -/
theorem initialAndFinalPermutation : Obligations.InitialAndFinalPermutation :=
  ⟨selectCommand64_of_unary (by decide) rfl fun _ => rfl, selectCommand64_of_unary (by decide) rfl fun _ => rfl⟩

/-- Settles O12: E selects 48 bits from a checked 32-bit operand. -/
theorem expansionResult : Obligations.ExpansionResult :=
  selectCommand_of_unary (by decide) rfl fun _ => rfl

/-- Settles O14: P and PINV select 32 bits from a checked 32-bit operand. -/
theorem pPermutationResults : Obligations.PPermutationResults :=
  ⟨selectCommand_of_unary (by decide) rfl fun _ => rfl, selectCommand_of_unary (by decide) rfl fun _ => rfl⟩

/-- Settles O15: PC1 selects 56 bits from all 64 bits of A. -/
theorem pc1Result : Obligations.Pc1Result :=
  selectCommand64_of_unary (by decide) rfl fun _ => rfl

/-- Settles O17: PC2 selects 48 bits from a checked 56-bit operand. -/
theorem pc2Result : Obligations.Pc2Result :=
  selectCommand_of_unary (by decide) rfl fun _ => rfl

/-! ### Selections that undo a selection (R108, R116, R119) -/

/-- `Selects` in DES positions, entry `j` of the table giving DES bit `j + 1`. -/
theorem selects_iff_dbit {W n : Nat} {T : List Nat} {x : BitVec W} {v : BitVec n} :
    Selects T x v ↔ ∀ j, j < n → dbit v (j + 1) = dbit x (T.getD j 0) :=
  ⟨fun h j hj => h (j + 1) (by omega) hj, fun h j h1 hn => by
    simpa only [dbit, Nat.sub_add_cancel h1] using h (j - 1) (by omega)⟩

/-- `T` selects `v` from what `T'` selects from `v`, where going through `T` and then `T'` leads back to a copy of each bit. -/
theorem selects_of_select {m n : Nat} {T T' : List Nat} {v : BitVec n} (hlen : T'.length = m)
    (hrange : ∀ j, j < n → 1 ≤ T.getD j 0 ∧ T.getD j 0 ≤ m)
    (hback : ∀ j, j < n → dbit v (T'.getD (T.getD j 0 - 1) 0) = dbit v (j + 1)) :
    Selects T (select m T' v) v := by
  refine selects_iff_dbit.2 fun j hj => ?_
  obtain ⟨hpos, hle⟩ := hrange j hj
  rw [dbit_select T' v hlen _ hpos hle, hback j hj]

/-- A position the inverse table has no entry for reads as 0 (R119). -/
theorem dbit_select_of_entry_zero {m n j : Nat} {T : List Nat} (v : BitVec n) (hlen : T.length = m)
    (h1 : 1 ≤ j) (hm : j ≤ m) (hentry : T.getD (j - 1) 0 = 0) : dbit (select m T v) j = false := by
  rw [dbit_select T v hlen j h1 hm, hentry, dbit_zero]

/-- A DES bit of an operand cut to `W` bits is that bit of the operand. -/
theorem dbit_setWidth {W j : Nat} (x : Word) (h1 : 1 ≤ j) (hW : j ≤ W) :
    dbit (x.setWidth W) j = x.getLsbD (W - j) := by
  have hlt : W - j < W := by omega
  simp [dbit, hlt]

/-! ### EINV (R106, R108) -/

/-- Each output position of E is the first copy of its input bit, or the second of a pair whose first is that copy. -/
theorem firstCopy_or_mem_listPairs : ∀ j, j < 48 →
    tableEINV.getD (listE.getD j 0 - 1) 0 = j + 1 ∨
      (tableEINV.getD (listE.getD j 0 - 1) 0, j + 1) ∈ listPairs := by decide

/-- A value whose duplicated pairs agree is the expansion of what EINV makes of it. -/
theorem selects_contractE {v : RoundKey} (h : ∀ k ∈ listPairs, dbit v k.1 = dbit v k.2) :
    Selects listE (contractE v) v := by
  refine selects_of_select rfl (by decide) fun j hj => ?_
  rcases firstCopy_or_mem_listPairs j hj with hfirst | hpair
  · rw [hfirst]
  · exact h _ hpair

theorem mem_listPairs_range : ∀ k ∈ listPairs, (1 ≤ k.1 ∧ k.1 ≤ 48) ∧ 1 ≤ k.2 ∧ k.2 ≤ 48 := by decide

/-- The duplicated pairs of the cut operand are read from the operand itself. -/
theorem dbit_pair_iff (x : Word) {k : Nat × Nat} (hk : k ∈ listPairs) :
    dbit (x.setWidth 48) k.1 = dbit (x.setWidth 48) k.2 ↔ x.getLsbD (48 - k.1) = x.getLsbD (48 - k.2) := by
  obtain ⟨⟨h1, h1'⟩, h2, h2'⟩ := mem_listPairs_range k hk
  rw [dbit_setWidth x h1 h1', dbit_setWidth x h2 h2']

theorem mismatchE_eq_false_iff (v : RoundKey) :
    mismatchE v = false ↔ ∀ k ∈ listPairs, dbit v k.1 = dbit v k.2 := by
  have hpairs : pairsE = listPairs := rfl
  simp [mismatchE, hpairs]

theorem execEinv_of_ge {s : State} {p : Pending} (hp : s.pending = some p) (h : 2 ^ 48 ≤ p.a.toNat) :
    exec .einv s = .next (errorState s p .width) := by
  rw [exec, execEinv, complete_of_pending hp, withWidth_of_wide (fits_eq_false h)]
  rfl

/-- EINV on an operand that is not too wide: the pairs decide. -/
theorem execEinv_of_lt {s : State} {p : Pending} (hp : s.pending = some p) (h : p.a.toNat < 2 ^ 48) :
    exec .einv s = .next (if mismatchE (p.a.setWidth 48) then errorState s p .eMismatch
      else resultState s ((contractE (p.a.setWidth 48)).setWidth 64)) := by
  rw [exec, execEinv, complete_of_pending hp, withWidth_of_fits ((fits_iff 48 p.a).2 h)]
  rfl

/-- Settles O13: where no pair disagrees, the first copy of each input bit gives all the others. -/
theorem expansionInverseResult : Obligations.ExpansionInverseResult := by
  refine ⟨by decide, fun s p hp => ⟨execEinv_of_ge hp, fun hlt hdiffer => ?_, fun hlt hagree => ?_⟩⟩
  · obtain ⟨k, hk, hne⟩ := hdiffer
    have hmis : mismatchE (p.a.setWidth 48) = true := by
      rw [← Bool.not_eq_false, mismatchE_eq_false_iff]
      exact fun hall => hne ((dbit_pair_iff p.a hk).1 (hall k hk))
    rw [execEinv_of_lt hp hlt, if_pos hmis]
  · have hcopies : ∀ k ∈ listPairs, dbit (p.a.setWidth 48) k.1 = dbit (p.a.setWidth 48) k.2 :=
      fun k hk => (dbit_pair_iff p.a hk).2 (hagree k hk)
    refine ⟨contractE (p.a.setWidth 48), selects_contractE hcopies, ?_⟩
    rw [execEinv_of_lt hp hlt, (mismatchE_eq_false_iff _).2 hcopies, if_neg Bool.false_ne_true]

/-! ### PC2INV (R119) -/

/-- PC2 selects `v` again from what PC2INV makes of it. -/
theorem selects_inversePC2 (v : RoundKey) : Selects listPC2 (inversePC2 v) v := by
  have hback : ∀ j, j < 48 → tablePC2INV.getD (listPC2.getD j 0 - 1) 0 = j + 1 := by decide
  exact selects_of_select rfl (by decide) fun j hj => by rw [hback j hj]

/-- The eight positions that PC2 does not select are 0 in the result of PC2INV. -/
theorem dbit_inversePC2_unselected (v : RoundKey) :
    ∀ j ∈ [9, 18, 22, 25, 35, 38, 43, 54], dbit (inversePC2 v) j = false := by
  intro j hj
  have hunselected : ∀ j ∈ [9, 18, 22, 25, 35, 38, 43, 54],
      1 ≤ j ∧ j ≤ 56 ∧ tablePC2INV.getD (j - 1) 0 = 0 := by decide
  obtain ⟨h1, h56, hentry⟩ := hunselected j hj
  exact dbit_select_of_entry_zero v rfl h1 h56 hentry

/-- Settles O18: PC2INV's table undoes PC2 and has no entry at the unselected positions. -/
theorem pc2InverseResult : Obligations.Pc2InverseResult := by
  refine ⟨by decide, fun s p hp => ⟨fun hge => complete_unary_of_ge hp hge inversePC2, fun hlt => ?_⟩⟩
  exact ⟨inversePC2 (p.a.setWidth 48), selects_inversePC2 _, dbit_inversePC2_unselected _,
    complete_unary_of_lt hp hlt inversePC2⟩

/-! ### PC1INV (R115, R116) -/

/-- A value built by position has at each DES position what stands there. -/
theorem dbit_ofDesBits_map {n : Nat} (g : Nat → Bool) {j : Nat} (h1 : 1 ≤ j) (hn : j ≤ n) :
    dbit (ofDesBits n ((List.range' 1 n).map g)) j = g j := by
  have hin : n - 1 - (n - j) < n := by omega
  have hpos : 1 + (n - 1 - (n - j)) = j := by omega
  rw [dbit, ofDesBits_getLsbD _ (by simp) _ (by omega)]
  simp [List.getD_eq_getElem?_getD, hin, hpos]

/-- DES bit 8n of the result of PC1INV is the parity bit of byte n (R115). -/
theorem dbit_inversePC1_parity (v : KeyState) {n : Nat} (h1 : 1 ≤ n) (h8 : n ≤ 8) :
    dbit (inversePC1 v) (8 * n) = !parityOf (spreadPC1 v) n := by
  rw [inversePC1, dbit_ofDesBits_map _ (by omega) (by omega)]
  simp

/-- At every other position PC1INV puts the key bit back. -/
theorem dbit_inversePC1_key (v : KeyState) {j : Nat} (h1 : 1 ≤ j) (h64 : j ≤ 64) (h : j % 8 ≠ 0) :
    dbit (inversePC1 v) j = dbit (spreadPC1 v) j := by
  rw [inversePC1, dbit_ofDesBits_map _ h1 h64, if_neg h]

/-- PC1 selects `v` from its bits back in their places. -/
theorem selects_spreadPC1 (v : KeyState) : Selects listPC1 (spreadPC1 v) v := by
  have hback : ∀ j, j < 56 → tablePC1INV.getD (listPC1.getD j 0 - 1) 0 = j + 1 := by decide
  exact selects_of_select rfl (by decide) fun j hj => by rw [hback j hj]

/-- PC1 selects `v` again from what PC1INV makes of it: the parity bits are not selected. -/
theorem selects_inversePC1 (v : KeyState) : Selects listPC1 (inversePC1 v) v := by
  have hkey : ∀ j, j < 56 → 1 ≤ listPC1.getD j 0 ∧ listPC1.getD j 0 ≤ 64 ∧ listPC1.getD j 0 % 8 ≠ 0 := by decide
  refine selects_iff_dbit.2 fun j hj => ?_
  obtain ⟨h1, h64, hne⟩ := hkey j hj
  rw [dbit_inversePC1_key v h1 h64 hne, selects_iff_dbit.1 (selects_spreadPC1 v) j hj]

/-- The parity of byte n, written out over its seven key bits (R115). -/
theorem parityOf_eq (k : Word) {n : Nat} (h1 : 1 ≤ n) :
    parityOf k n = (dbit k (8 * n - 7) ^^ dbit k (8 * n - 6) ^^ dbit k (8 * n - 5) ^^ dbit k (8 * n - 4) ^^
      dbit k (8 * n - 3) ^^ dbit k (8 * n - 2) ^^ dbit k (8 * n - 1)) := by
  obtain ⟨m, rfl⟩ : ∃ m, n = m + 1 := ⟨n - 1, by omega⟩
  simp [parityOf, List.range', Nat.mul_succ]

/-- Seven bits and the complement of their exclusive-or hold an odd number of 1 bits, the bits counted from either end. -/
theorem odd_count_with_parity : ∀ a b c d e f g : Bool,
    ((!(a ^^ b ^^ c ^^ d ^^ e ^^ f ^^ g)).toNat + g.toNat + f.toNat + e.toNat + d.toNat + c.toNat + b.toNat + a.toNat) % 2
      = 1 := by decide

/-- Every byte of the result of PC1INV has odd parity. -/
theorem inversePC1_odd_bytes (v : KeyState) (n : Nat) (hn : n < 8) :
    ((List.range 8).foldl (fun acc k => acc + ((inversePC1 v).getLsbD (8 * n + k)).toNat) 0) % 2 = 1 := by
  have hparity : (inversePC1 v).getLsbD (8 * n) = !parityOf (spreadPC1 v) (8 - n) := by
    rw [← dbit_inversePC1_parity v (by omega) (by omega), dbit]
    congr 1
    omega
  have hkey : ∀ k, 1 ≤ k → k < 8 →
      (inversePC1 v).getLsbD (8 * n + k) = dbit (spreadPC1 v) (8 * (8 - n) - k) := by
    intro k h1 h8
    rw [← dbit_inversePC1_key v (by omega) (by omega) (by omega), dbit]
    congr 1
    omega
  have hrange : List.range 8 = [0, 1, 2, 3, 4, 5, 6, 7] := rfl
  simp only [hrange, List.foldl_cons, List.foldl_nil, Nat.add_zero, Nat.zero_add]
  rw [hparity, parityOf_eq _ (by omega)]
  simp (disch := omega) only [hkey]
  exact odd_count_with_parity ..

/-- Settles O16: PC1INV spreads the bits back and then sets each parity bit. -/
theorem pc1InverseResult : Obligations.Pc1InverseResult := by
  refine ⟨by decide, fun s p hp => ⟨fun hge => complete_unary_of_ge hp hge inversePC1, fun hlt => ?_⟩⟩
  refine ⟨inversePC1 (p.a.setWidth 56), selects_inversePC1 _, inversePC1_odd_bytes _, ?_⟩
  exact (complete_unary_of_lt hp hlt inversePC1).trans (by rw [BitVec.setWidth_eq])

end Sys2Proof.Machine

/-! Proofs of the family 42_sboxes_halves.md: S-box substitution and half extraction (R140 to R145). -/

namespace Sys2Proof.Machine

open Sys2Proof.Spec

/-! ### A command word given by its fields (R71, R81) -/

/-- A field of a word is the number shifted down to the field and cut to its length. -/
theorem toNat_extractLsb'_ofNat {n : Nat} (h : n < 2 ^ 64) (start len : Nat) :
    ((BitVec.ofNat 64 n).extractLsb' start len).toNat = n / 2 ^ start % 2 ^ len := by
  rw [BitVec.extractLsb'_toNat, BitVec.toNat_ofNat, Nat.mod_eq_of_lt h, Nat.shiftRight_eq_div_pow]

/-- The word with `idx` in the IDX field and `opc` in the OPC field has no reserved bit set. -/
theorem reservedSet_ofFields {idx opc : Nat} (hidx : idx < 32) (hopc : opc < 64) :
    reservedSet (BitVec.ofNat 64 (idx * 256 + opc)) = false := by
  have hclear : ∀ start len, (idx * 256 + opc) / 2 ^ start % 2 ^ len = 0 →
      (BitVec.ofNat 64 (idx * 256 + opc)).extractLsb' start len = 0 := fun start len h =>
    BitVec.eq_of_toNat_eq ((toNat_extractLsb'_ofNat (by omega) start len).trans h)
  rw [reservedSet, hclear 32 32 (by omega), hclear 6 2 (by omega), hclear 13 19 (by omega)]
  rfl

/-- The word with `idx` in the IDX field and `opc` in the OPC field decodes to the command that `opc` selects. -/
theorem decode_ofFields {idx opc : Nat} {i : Instr} (hidx : idx < 32) (hopc : opc < 64)
    (hcmd : commandOf opc idx = some i) (hindex : i.index = idx) :
    decode (BitVec.ofNat 64 (idx * 256 + opc)) = .ok i := by
  have hopcOf : (opcOf (BitVec.ofNat 64 (idx * 256 + opc))).toNat = opc := by
    rw [opcOf, toNat_extractLsb'_ofNat (by omega)]
    omega
  have hidxOf : (idxOf (BitVec.ofNat 64 (idx * 256 + opc))).toNat = idx := by
    rw [idxOf, toNat_extractLsb'_ofNat (by omega)]
    omega
  simp [decode, reservedSet_ofFields hidx hopc, hopcOf, hidxOf, hcmd, hindex]

/-! ### Commands with an index (R216) -/

/-- A command whose index is out of range ends in its index error, whatever the operand. -/
theorem complete_indexed_of_bad {s : State} {p : Pending} (hp : s.pending = some p) {bad : Prop} [Decidable bad]
    (h : bad) (code : ErrCode) (body : Pending → State → State) :
    complete s (fun p t => if bad then raiseErr code p t else body p t) = .next (errorState s p code) := by
  rw [complete_of_pending hp, if_pos h]
  rfl

/-- A command whose index is in range is the command without the range check. -/
theorem complete_indexed_of_good {s : State} {bad : Prop} [Decidable bad] (h : ¬ bad) (code : ErrCode)
    (body : Pending → State → State) :
    complete s (fun p t => if bad then raiseErr code p t else body p t) = complete s body := by
  simp only [if_neg h]

/-! ### SBOX and SBOXES (R142, R143) -/

/-- SBOX with an index of a box is the one-operand command of that box. -/
theorem exec_sbox_of_index {idx : Nat} (h1 : 1 ≤ idx) (h8 : idx ≤ 8) (s : State) :
    exec (.sbox idx) s = complete s (unary 6 (sbox idx)) :=
  complete_indexed_of_good (by omega) .sboxIndex _

/-- Settles O20: the range check on the index comes before the width check on the operand. -/
theorem singleSboxResult : Obligations.SingleSboxResult := by
  refine ⟨fun idx hidx => decode_ofFields hidx (by omega) rfl rfl, fun s p idx hp => ⟨fun hbad => ?_, ?_, ?_⟩⟩
  · exact complete_indexed_of_bad hp hbad .sboxIndex _
  · intro h1 h8 hge
    rw [exec_sbox_of_index h1 h8, complete_unary_of_ge hp hge]
  · intro h1 h8 hlt
    refine ⟨sbox idx (p.a.setWidth 6), (isSbox_iff h1 h8 _ _).2 rfl, ?_⟩
    rw [exec_sbox_of_index h1 h8, complete_unary_of_lt hp hlt]

/-- Settles O21: SBOXES is the one-operand command of the eight lanes, of which lane n is nibble n of the result. -/
theorem allSboxesResult : Obligations.AllSboxesResult := by
  refine ⟨by decide, fun s p hp => ⟨fun hge => complete_unary_of_ge hp hge sboxes, fun hlt => ?_⟩⟩
  exact ⟨sboxes (p.a.setWidth 48), (isSboxes_iff _ _).2 rfl, complete_unary_of_lt hp hlt sboxes⟩

/-! ### LHALF and RHALF (R144, R145) -/

/-- A command of one operand yields its function of every operand of its width. -/
theorem yields_of_unary {i : Instr} {W n : Nat} {fn : BitVec W → BitVec n} (hW : W ≤ 64)
    (hexec : ∀ s, exec i s = complete s (unary W fn)) (x : BitVec W) : Yields i x (fn x) := by
  intro s p hp ha
  have hfit : p.a.toNat < 2 ^ W := by
    rw [ha, BitVec.toNat_setWidth_of_le hW]
    exact x.isLt
  have hx : p.a.setWidth W = x := by rw [ha, BitVec.setWidth_setWidth_of_le x hW, BitVec.setWidth_eq]
  rw [hexec, complete_unary_of_lt hp hfit, hx]

/-- A result is the 64-bit value it is extended to in R (R101). -/
theorem yields_zext {m n : Nat} {i : Instr} {a : BitVec m} {v : BitVec n} (h : Yields i a v) :
    Yields i a (zext v) := by
  intro s p hp ha
  rw [h s p hp ha, zext, BitVec.setWidth_eq]

theorem toNat_zext_leftHalf (a : Word) : (zext (leftHalf a)).toNat = a.toNat / 2 ^ 32 := by
  have hlt : a.toNat < 2 ^ 64 := a.isLt
  rw [zext, BitVec.toNat_setWidth_of_le (by omega), leftHalf, BitVec.extractLsb'_toNat, Nat.shiftRight_eq_div_pow]
  omega

theorem toNat_zext_rightHalf (a : Word) : (zext (rightHalf a)).toNat = a.toNat % 2 ^ 32 := by
  rw [zext, BitVec.toNat_setWidth_of_le (by omega), rightHalf, BitVec.extractLsb'_toNat, Nat.shiftRight_zero]

/-- The halves side by side are the operand (R145): the quotient and the remainder of the division by `2^32`. -/
theorem halves_recombine (a : Word) : (zext (leftHalf a) <<< 32) ||| zext (rightHalf a) = a := by
  have hlt : a.toNat < 2 ^ 64 := a.isLt
  have hrem : a.toNat % 2 ^ 32 < 2 ^ 32 := Nat.mod_lt _ (by omega)
  apply BitVec.eq_of_toNat_eq
  calc ((zext (leftHalf a) <<< 32) ||| zext (rightHalf a)).toNat
      = (a.toNat / 2 ^ 32) <<< 32 ||| a.toNat % 2 ^ 32 := by
        rw [BitVec.toNat_or, BitVec.toNat_shiftLeft, toNat_zext_leftHalf, toNat_zext_rightHalf,
          Nat.mod_eq_of_lt (by rw [Nat.shiftLeft_eq]; omega)]
    _ = 2 ^ 32 * (a.toNat / 2 ^ 32) + a.toNat % 2 ^ 32 := by
        rw [← Nat.shiftLeft_add_eq_or_of_lt hrem, Nat.shiftLeft_eq, Nat.mul_comm]
    _ = a.toNat := Nat.div_add_mod _ _

/-- Settles O22: the two results are the quotient and the remainder of the operand by `2^32`. -/
theorem halfExtractionResults : Obligations.HalfExtractionResults :=
  ⟨by decide, by decide, fun a => ⟨zext (leftHalf a), zext (rightHalf a),
    yields_zext (yields_of_unary (fn := leftHalf) (by omega) (fun _ => rfl) a),
    yields_zext (yields_of_unary (fn := rightHalf) (by omega) (fun _ => rfl) a),
    toNat_zext_leftHalf a, toNat_zext_rightHalf a, halves_recombine a⟩⟩

end Sys2Proof.Machine

/-! Proofs of the family 43_key_schedule.md: ROTL, ROTR and KS (R160 to R163). -/

namespace Sys2Proof.Machine

open Sys2Proof.Spec

/-! ### Rotations are inverse (R13) -/

/-- A bit below `w` minus the amount goes up by it and comes down again; a bit above wraps around to the bottom and back. -/
theorem rotateRight_rotateLeft {w : Nat} (x : BitVec w) (r : Nat) : (x.rotateLeft r).rotateRight r = x := by
  apply BitVec.eq_of_getLsbD_eq
  intro k hk
  have hr : r % w < w := Nat.mod_lt _ (by omega)
  rw [BitVec.getLsbD_rotateRight, BitVec.getLsbD_rotateLeft, BitVec.getLsbD_rotateLeft]
  by_cases hlow : k < w - r % w
  · have hup : ¬ r % w + k < r % w := by omega
    have hin : r % w + k < w := by omega
    simp [hlow, hin]
  · have hwrap : k - (w - r % w) < r % w := by omega
    have hpos : w - r % w + (k - (w - r % w)) = k := by omega
    simp [hlow, hwrap, hpos, hk]

/-- A bit at or above the amount goes down by it and comes up again; a bit below wraps around to the top and back. -/
theorem rotateLeft_rotateRight {w : Nat} (x : BitVec w) (r : Nat) : (x.rotateRight r).rotateLeft r = x := by
  apply BitVec.eq_of_getLsbD_eq
  intro k hk
  have hr : r % w < w := Nat.mod_lt _ (by omega)
  rw [BitVec.getLsbD_rotateLeft, BitVec.getLsbD_rotateRight, BitVec.getLsbD_rotateRight]
  by_cases hlow : k < r % w
  · have hwrap : ¬ w - r % w + k < w - r % w := by omega
    have hin : w - r % w + k < w := by omega
    have hpos : w - r % w + k - (w - r % w) = k := by omega
    simp [hlow, hin, hpos]
  · have hdown : k - r % w < w - r % w := by omega
    have hpos : r % w + (k - r % w) = k := by omega
    simp [hlow, hdown, hpos, hk]

/-! ### The rotations of one round (R160 to R162) -/

/-- ROTL's function in rounds 1..16 is the left rotation of both sub-halves by the amount of R160. -/
theorem rotlState_amt {idx : Nat} (h1 : 1 ≤ idx) (h16 : idx ≤ 16) (y : KeyState) :
    rotlState (amt idx) y =
      (halfC y).rotateLeft (rotationAmount idx) ++ (halfD y).rotateLeft (rotationAmount idx) := by
  rw [rotlState, amt_eq_rotationAmount idx (by omega) h1, rotl28_eq_rotateLeft _ (rotationAmount_one_or_two idx),
    rotl28_eq_rotateLeft _ (rotationAmount_one_or_two idx)]

/-- ROTR's function in rounds 1..16 is the right rotation of both sub-halves by the amount of R160. -/
theorem rotrState_amt {idx : Nat} (h1 : 1 ≤ idx) (h16 : idx ≤ 16) (y : KeyState) :
    rotrState (amt idx) y =
      (halfC y).rotateRight (rotationAmount idx) ++ (halfD y).rotateRight (rotationAmount idx) := by
  rw [rotrState, amt_eq_rotationAmount idx (by omega) h1, rotr28_eq_rotateRight _ (rotationAmount_one_or_two idx),
    rotr28_eq_rotateRight _ (rotationAmount_one_or_two idx)]

/-- ROTR's function undoes ROTL's. -/
theorem rotrState_rotlState {idx : Nat} (h1 : 1 ≤ idx) (h16 : idx ≤ 16) (y : KeyState) :
    rotrState (amt idx) (rotlState (amt idx) y) = y := by
  rw [rotlState_amt h1 h16, rotrState_amt h1 h16, halfC_append, halfD_append, rotateRight_rotateLeft,
    rotateRight_rotateLeft, halfC_append_halfD]

/-- ROTL's function undoes ROTR's. -/
theorem rotlState_rotrState {idx : Nat} (h1 : 1 ≤ idx) (h16 : idx ≤ 16) (y : KeyState) :
    rotlState (amt idx) (rotrState (amt idx) y) = y := by
  rw [rotrState_amt h1 h16, rotlState_amt h1 h16, halfC_append, halfD_append, rotateLeft_rotateRight,
    rotateLeft_rotateRight, halfC_append_halfD]

/-- The sub-halves of an operand cut to 56 bits are read from the operand itself (R120). -/
theorem halfC_setWidth (x : Word) : halfC (x.setWidth 56) = x.extractLsb' 28 28 :=
  BitVec.extractLsb'_setWidth_of_le (by omega)

theorem halfD_setWidth (x : Word) : halfD (x.setWidth 56) = x.extractLsb' 0 28 :=
  BitVec.extractLsb'_setWidth_of_le (by omega)

/-! ### ROTL and ROTR (R161, R162) -/

/-- ROTL with the index of a round is the one-operand command of that round's left rotation. -/
theorem exec_rotl_of_index {idx : Nat} (h1 : 1 ≤ idx) (h16 : idx ≤ 16) (s : State) :
    exec (.rotl idx) s = complete s (unary 56 (rotlState (amt idx))) :=
  complete_indexed_of_good (by omega) .roundIndex _

/-- ROTR with the index of a round is the one-operand command of that round's right rotation. -/
theorem exec_rotr_of_index {idx : Nat} (h1 : 1 ≤ idx) (h16 : idx ≤ 16) (s : State) :
    exec (.rotr idx) s = complete s (unary 56 (rotrState (amt idx))) :=
  complete_indexed_of_good (by omega) .roundIndex _

/-- Settles O23: the range check on the index comes before the width check on the operand. -/
theorem rotationResults : Obligations.RotationResults := by
  refine ⟨fun idx hidx => ?_, fun s p idx hp => ⟨fun hbad => ?_, fun h1 h16 hge => ?_, fun h1 h16 hlt => ?_⟩⟩
  · exact ⟨decode_ofFields hidx (by omega) rfl rfl, decode_ofFields hidx (by omega) rfl rfl⟩
  · exact ⟨complete_indexed_of_bad hp hbad .roundIndex _, complete_indexed_of_bad hp hbad .roundIndex _⟩
  · rw [exec_rotl_of_index h1 h16, exec_rotr_of_index h1 h16]
    exact ⟨complete_unary_of_ge hp hge _, complete_unary_of_ge hp hge _⟩
  · rw [exec_rotl_of_index h1 h16, exec_rotr_of_index h1 h16, complete_unary_of_lt hp hlt,
      complete_unary_of_lt hp hlt, rotlState_amt h1 h16, rotrState_amt h1 h16, halfC_setWidth, halfD_setWidth]
    exact ⟨rfl, rfl⟩

/-- ROTL in rounds 1..16 yields the rotated state of every key-schedule state. -/
theorem yields_rotl {idx : Nat} (h1 : 1 ≤ idx) (h16 : idx ≤ 16) (y : KeyState) :
    Yields (.rotl idx) y (rotlState (amt idx) y) :=
  yields_of_unary (by omega) (exec_rotl_of_index h1 h16) y

/-- ROTR in rounds 1..16 yields the state of every key-schedule state rotated back. -/
theorem yields_rotr {idx : Nat} (h1 : 1 ≤ idx) (h16 : idx ≤ 16) (y : KeyState) :
    Yields (.rotr idx) y (rotrState (amt idx) y) :=
  yields_of_unary (by omega) (exec_rotr_of_index h1 h16) y

/-- Settles O24: the second command runs on the first one's result, and its function undoes the first one's. -/
theorem rotationsAreInverse : Obligations.RotationsAreInverse := by
  intro idx h1 h16 y
  have hback := yields_rotr h1 h16 (rotlState (amt idx) y)
  rw [rotrState_rotlState h1 h16] at hback
  have hforth := yields_rotl h1 h16 (rotrState (amt idx) y)
  rw [rotlState_rotrState h1 h16] at hforth
  exact ⟨⟨_, yields_rotl h1 h16 y, hback⟩, ⟨_, yields_rotr h1 h16 y, hforth⟩⟩

/-! ### KS (R163) -/

/-- Settles O25: the model's schedule is the one of R163, and KS writes it. -/
theorem keyScheduleResult : Obligations.KeyScheduleResult :=
  ⟨by decide, fun key => ⟨keySchedule key, (isSchedule_iff key _).2 rfl, ksWrites_keySchedule key⟩⟩

end Sys2Proof.Machine


/-! Proofs of the family 44_round_cipher.md: the round function, the cipher and the self-check (R180 to R197). -/

namespace Sys2Proof.Machine

open Sys2Proof.Spec

/-! ### F (R180, R181) -/

/-- F on operands that both fit completes with the round function. -/
theorem exec_f_of_lt {s : State} {p : Pending} (hp : s.pending = some p) (ha : p.a.toNat < 2 ^ 48)
    (hb : p.b.toNat < 2 ^ 32) :
    ∃ d, exec .f s =
      .next { resultState s ((roundF (p.a.setWidth 48) (p.b.setWidth 32)).setWidth 64) with datapath := d } := by
  rw [exec, execF, complete_of_pending hp, withWidth_of_fits ((fits_iff 48 p.a).2 ha),
    withWidth_of_fits ((fits_iff 32 p.b).2 hb)]
  exact ⟨_, rfl⟩

/-- F with a round key or a half that is too wide ends in WIDTH, whatever the other operand is. -/
theorem exec_f_of_ge {s : State} {p : Pending} (hp : s.pending = some p)
    (h : 2 ^ 48 ≤ p.a.toNat ∨ 2 ^ 32 ≤ p.b.toNat) : exec .f s = .next (errorState s p .width) := by
  rw [exec, execF, complete_of_pending hp]
  by_cases ha : 2 ^ 48 ≤ p.a.toNat
  · rw [withWidth_of_wide (fits_eq_false ha)]
    rfl
  · rw [withWidth_of_fits ((fits_iff 48 p.a).2 (Nat.not_le.1 ha)),
      withWidth_of_wide (fits_eq_false (h.resolve_left ha))]
    rfl

/-- Settles O27: the two width checks decide, and the result is the model's round function. -/
theorem roundFunctionResult : Obligations.RoundFunctionResult := by
  refine ⟨by decide, fun s p hp => ⟨exec_f_of_ge hp, fun ha hb => ?_⟩⟩
  obtain ⟨d, hd⟩ := exec_f_of_lt hp ha hb
  exact ⟨_, d, (isRoundF_iff _ _ _).2 rfl, hd⟩

/-! ### One bit of F (R188) -/

/-- DES bit `j` of a half stands in nibble `(j + 3) / 4` from the left. -/
theorem dbit_eq_nibble (v : Half) {j : Nat} (h1 : 1 ≤ j) (h32 : j ≤ 32) :
    dbit v j = (v.extractLsb' (32 - 4 * ((j + 3) / 4)) 4).getLsbD (4 * ((j + 3) / 4) - j) := by
  have hin : 4 * ((j + 3) / 4) - j < 4 := by omega
  have hpos : 32 - 4 * ((j + 3) / 4) + (4 * ((j + 3) / 4) - j) = 32 - j := by omega
  simp [dbit, hin, hpos]

/-- The table of R188 says in which nibble P finds each bit of its result. -/
theorem boxOfBit_eq_nibble_of_tableP : ∀ t, t < 32 →
    1 ≤ tableP.getD t 0 ∧ tableP.getD t 0 ≤ 32 ∧ (tableP.getD t 0 + 3) / 4 = boxOfBit.getD t 0 := by decide

/-- DES bit `t` of the round function is a bit of one box `n`, on that box's six bits of half and round key (R188). -/
theorem dbit_roundF (rk : RoundKey) (h : Half) {t n : Nat} (h1 : 1 ≤ t) (h32 : t ≤ 32)
    (hn : boxOfBit.getD (t - 1) 0 = n) :
    dbit (roundF rk h) t =
      (sbox n ((expandE h).extractLsb' (48 - 6 * n) 6 ^^^ rk.extractLsb' (48 - 6 * n) 6)).getLsbD
        (4 * n - tableP.getD (t - 1) 0) := by
  obtain ⟨hpos, hle, hbox⟩ := boxOfBit_eq_nibble_of_tableP (t - 1) (by omega)
  rw [roundF, permP, dbit_select (n := 32) tableP _ rfl t h1 h32, dbit_eq_nibble _ hpos hle, hbox, hn,
    nibble_sboxes _ (by omega) (by omega), BitVec.extractLsb'_xor]

/-- F with a round key in the pending record leaves the round function's bits in R. -/
theorem exec_f_roundKey (s : State) (w : Word) (rk : RoundKey) {h : Word} (hh : h.toNat < 2 ^ 32) :
    ∃ u, exec .f { s with pending := some ⟨w, rk.setWidth 64, h⟩ } = .next u ∧
      ∀ t, 1 ≤ t → t ≤ 32 → u.r.getLsbD (32 - t) = dbit (roundF rk (h.setWidth 32)) t := by
  have hfit : (rk.setWidth 64).toNat < 2 ^ 48 := by
    rw [BitVec.toNat_setWidth_of_le (by omega)]
    exact rk.isLt
  have hrk : (rk.setWidth 64).setWidth 48 = rk := by
    rw [BitVec.setWidth_setWidth_of_le rk (by omega), BitVec.setWidth_eq]
  obtain ⟨d, hd⟩ := exec_f_of_lt (s := { s with pending := some ⟨w, rk.setWidth 64, h⟩ }) rfl hfit hh
  refine ⟨_, hd, fun t h1 h32 => ?_⟩
  have hin : 32 - t < 64 := by omega
  simp only [resultState, hrk, BitVec.getLsbD_setWidth, hin, decide_true, Bool.true_and, dbit]

/-- Settles O33: the two runs of F put the same six bits into the box that bit `t` comes from. -/
theorem roundFunctionBitLocality : Obligations.RoundFunctionBitLocality := by
  intro s w h rk rk' t hh h1 h32 hagree
  obtain ⟨u, hu, hbit⟩ := exec_f_roundKey s w rk hh
  obtain ⟨u', hu', hbit'⟩ := exec_f_roundKey s w rk' hh
  refine ⟨u, u', hu, hu', ?_⟩
  rw [hbit t h1 h32, hbit' t h1 h32, dbit_roundF rk _ h1 h32 rfl, dbit_roundF rk' _ h1 h32 rfl, hagree]

/-! ### ENC and DEC (R183 to R185) -/

/-- What ENC and DEC share: the Feistel network under the round keys of the file, taken in some order (R183). -/
def cipherCommand (order : Vector RoundKey 16 → List RoundKey) (s : State) : Host.Outcome State Fault Refusal :=
  complete s fun p t =>
    if t.ksv then writeResult (feistel (order t.rk) p.a) { t with datapath := cipherDatapath (order t.rk) p.a }
    else raiseErr .noSchedule p t

theorem exec_enc (s : State) : exec .enc s = cipherCommand (fun K => K.toList) s := rfl

theorem exec_dec (s : State) : exec .dec s = cipherCommand (fun K => K.toList.reverse) s := rfl

theorem cipherCommand_of_noSchedule {s : State} {p : Pending} (hp : s.pending = some p) (h : s.ksv = false)
    (order : Vector RoundKey 16 → List RoundKey) :
    cipherCommand order s = .next (errorState s p .noSchedule) := by
  have hksv : ¬ (retire s).ksv = true := by simp [h]
  rw [cipherCommand, complete_of_pending hp, if_neg hksv]
  rfl

theorem cipherCommand_of_schedule {s : State} {p : Pending} (hp : s.pending = some p) (h : s.ksv = true)
    (order : Vector RoundKey 16 → List RoundKey) :
    ∃ d, cipherCommand order s = .next { resultState s (feistel (order s.rk) p.a) with datapath := d } := by
  have hksv : (retire s).ksv = true := h
  rw [cipherCommand, complete_of_pending hp, if_pos hksv]
  refine ⟨cipherDatapath (order s.rk) p.a, ?_⟩
  rw [writeResult, zext, BitVec.setWidth_eq]
  rfl

/-- Settles O28: ENC is the network under the keys of the file in their own order. -/
theorem encipherResult : Obligations.EncipherResult := by
  refine ⟨by decide, fun s p hp => ⟨fun h => (exec_enc s).trans (cipherCommand_of_noSchedule hp h _), fun h => ?_⟩⟩
  obtain ⟨d, hd⟩ := cipherCommand_of_schedule hp h fun K => K.toList
  exact ⟨encipher s.rk p.a, d, (isFeistel_forward_iff _ _ _).2 rfl, (exec_enc s).trans hd⟩

/-- Settles O29: DEC is the network under the keys of the file in reverse. -/
theorem decipherResult : Obligations.DecipherResult := by
  refine ⟨by decide, fun s p hp => ⟨fun h => (exec_dec s).trans (cipherCommand_of_noSchedule hp h _), fun h => ?_⟩⟩
  obtain ⟨d, hd⟩ := cipherCommand_of_schedule hp h fun K => K.toList.reverse
  exact ⟨decipher s.rk p.a, d, (isFeistel_backward_iff _ _ _).2 rfl, (exec_dec s).trans hd⟩

/-- A command that is the network under some order of the keys yields the network's value. -/
theorem cipherYields_of_order {i : Instr} {order : Vector RoundKey 16 → List RoundKey}
    (hexec : ∀ s, exec i s = cipherCommand order s) (K : Vector RoundKey 16) (x : Word) :
    CipherYields i K x (feistel (order K) x) := by
  rintro s p hp rfl hksv rfl
  rw [hexec]
  exact cipherCommand_of_schedule hp hksv order

theorem cipherYields_enc (K : Vector RoundKey 16) (x : Word) : CipherYields .enc K x (encipher K x) :=
  cipherYields_of_order exec_enc K x

theorem cipherYields_dec (K : Vector RoundKey 16) (x : Word) : CipherYields .dec K x (decipher K x) :=
  cipherYields_of_order exec_dec K x

/-! ### IP and FP around the rounds (R104, R187) -/

theorem permIP_permFP (y : Word) : permIP (permFP y) = y := by
  have hback : ∀ j, j < 64 → listFP.getD (listIP.getD j 0 - 1) 0 = j + 1 := by decide
  have hsel : Selects listIP (permFP y) y :=
    selects_of_select rfl (by decide) fun j hj => congrArg (dbit y) (hback j hj)
  exact ((selects_iff listIP rfl _ _).1 hsel).symm

theorem permFP_permIP (y : Word) : permFP (permIP y) = y := by
  have hback : ∀ j, j < 64 → listIP.getD (listFP.getD j 0 - 1) 0 = j + 1 := by decide
  have hsel : Selects listFP (permIP y) y :=
    selects_of_select rfl (by decide) fun j hj => congrArg (dbit y) (hback j hj)
  exact ((selects_iff listFP rfl _ _).1 hsel).symm

/-- IP takes FP off again: what stands before FP is the last right half and then the last left half (R187). -/
theorem permIP_feistel (keys : List RoundKey) (x : Word) :
    permIP (feistel keys x) = (roundsOf keys (startHalves x)).2 ++ (roundsOf keys (startHalves x)).1 :=
  permIP_permFP _

/-- The network started on its own result starts with its last halves swapped. -/
theorem startHalves_feistel (keys : List RoundKey) (x : Word) :
    startHalves (feistel keys x) = (roundsOf keys (startHalves x)).swap := by
  rw [startHalves, permIP_feistel, leftHalf_append, rightHalf_append]
  rfl

/-- Settles O32: the last round only swapped in the right half of round 15, so `L_16` gives it back. -/
theorem preOutputGivesRound15 : Obligations.PreOutputGivesRound15 := by
  intro s p hp hksv
  have hrounds := isRounds_roundsOf s.rk.toList (by simp) p.a
  have hall : s.rk.toList.take 16 = s.rk.toList := List.take_of_length_le (by simp)
  obtain ⟨d, hd⟩ := cipherCommand_of_schedule hp hksv fun K => K.toList
  obtain ⟨hL, o, ho, hR⟩ := hrounds.2 15 (by omega)
  refine ⟨_, _, _, d, o, hrounds, (exec_enc s).trans hd, ?_, hL, ho, ?_⟩
  · simp only [hall]
    exact (selects_iff listIP rfl _ _).2 (permIP_feistel _ _).symm
  · exact (xor_cancel_right _ o).symm.trans (congrArg (· ^^^ o) hR.symm)

/-! ### DEC undoes ENC (R186) -/

/-- A round undoes itself on swapped halves: the same `f(k, R)` is exclusive-ored in twice. -/
theorem feistelRound_swap_feistelRound (h : Half × Half) (k : RoundKey) :
    feistelRound (feistelRound h k).swap k = h.swap := by
  calc feistelRound (feistelRound h k).swap k
      = (h.2, h.1 ^^^ roundF k h.2 ^^^ roundF k h.2) := rfl
    _ = h.swap := by rw [xor_cancel_right]; rfl

/-- The rounds under the reversed keys undo the rounds, last round first. -/
theorem roundsOf_reverse_swap (keys : List RoundKey) (h : Half × Half) :
    roundsOf keys.reverse (roundsOf keys h).swap = h.swap := by
  induction keys generalizing h with
  | nil => rfl
  | cons k ks ih =>
    have hlast : roundsOf (k :: ks).reverse (roundsOf (k :: ks) h).swap =
        feistelRound (roundsOf ks.reverse (roundsOf ks (feistelRound h k)).swap) k := by
      simp [roundsOf]
    rw [hlast, ih, feistelRound_swap_feistelRound]

/-- The network under the reversed keys undoes the network, for any number of rounds. -/
theorem feistel_reverse_feistel (keys : List RoundKey) (x : Word) : feistel keys.reverse (feistel keys x) = x := by
  have hend : roundsOf keys.reverse (startHalves (feistel keys x)) = (startHalves x).swap := by
    rw [startHalves_feistel, roundsOf_reverse_swap]
  calc feistel keys.reverse (feistel keys x)
      = permFP ((startHalves x).1 ++ (startHalves x).2) := by rw [feistel, hend]; rfl
    _ = permFP (permIP x) := by rw [startHalves, leftHalf_append_rightHalf]
    _ = x := permFP_permIP x

theorem decipher_encipher (K : Vector RoundKey 16) (x : Word) : decipher K (encipher K x) = x :=
  feistel_reverse_feistel K.toList x

theorem encipher_decipher (K : Vector RoundKey 16) (x : Word) : encipher K (decipher K x) = x := by
  simpa only [encipher, decipher, List.reverse_reverse] using feistel_reverse_feistel K.toList.reverse x

/-- Settles O30: reversing the order of the keys twice gives the order of ENC again, so each undoes the other. -/
theorem decipherUndoesEncipher : Obligations.DecipherUndoesEncipher := by
  intro key x
  have hdec := cipherYields_dec (keySchedule key) (encipher (keySchedule key) x)
  have henc := cipherYields_enc (keySchedule key) (decipher (keySchedule key) x)
  rw [decipher_encipher] at hdec
  rw [encipher_decipher] at henc
  exact ⟨keySchedule key, _, _, ksWrites_keySchedule key, cipherYields_enc _ x, hdec, cipherYields_dec _ x, henc⟩

/-! ### Complementation (R184) -/

/-- A selection that has a bit for every entry of its table commutes with the complement. -/
theorem select_not {W n : Nat} {T : List Nat} (hlen : T.length = n)
    (hrange : ∀ j, j < n → 1 ≤ T.getD j 0 ∧ T.getD j 0 ≤ W) (x : BitVec W) :
    select n T (~~~x) = ~~~select n T x := by
  apply BitVec.eq_of_getLsbD_eq
  intro k hk
  obtain ⟨h1, hW⟩ := hrange (n - 1 - k) (by omega)
  have hin : W - T.getD (n - 1 - k) 0 < W := by omega
  rw [BitVec.getLsbD_not, select_getLsbD T _ hlen k hk, select_getLsbD T _ hlen k hk, BitVec.getLsbD_not,
    decide_eq_true hk, decide_eq_true hin]

/-- A field inside a value commutes with the complement. -/
theorem extractLsb'_not {W start len : Nat} (h : start + len ≤ W) (x : BitVec W) :
    (~~~x).extractLsb' start len = ~~~x.extractLsb' start len := by
  apply BitVec.eq_of_getLsbD_eq
  intro k hk
  have hin : start + k < W := by omega
  simp [hk, hin]

theorem rotateLeft_not {w : Nat} (x : BitVec w) (r : Nat) : (~~~x).rotateLeft r = ~~~x.rotateLeft r := by
  apply BitVec.eq_of_getLsbD_eq
  intro k hk
  have hr : r % w < w := Nat.mod_lt _ (by omega)
  rw [BitVec.getLsbD_not, BitVec.getLsbD_rotateLeft, BitVec.getLsbD_rotateLeft]
  by_cases hlow : k < r % w
  · have hin : w - r % w + k < w := by omega
    simp [hlow, hin, hk]
  · have hin : k - r % w < w := by omega
    simp [hlow, hin, hk]

theorem halfC_not (y : KeyState) : halfC (~~~y) = ~~~halfC y := extractLsb'_not (by omega) y

theorem halfD_not (y : KeyState) : halfD (~~~y) = ~~~halfD y := extractLsb'_not (by omega) y

theorem leftHalf_not (x : Word) : leftHalf (~~~x) = ~~~leftHalf x := extractLsb'_not (by omega) x

theorem rightHalf_not (x : Word) : rightHalf (~~~x) = ~~~rightHalf x := extractLsb'_not (by omega) x

theorem permIP_not (x : Word) : permIP (~~~x) = ~~~permIP x := select_not rfl (by decide) x

theorem permFP_not (x : Word) : permFP (~~~x) = ~~~permFP x := select_not rfl (by decide) x

theorem expandE_not (h : Half) : expandE (~~~h) = ~~~expandE h := select_not rfl (by decide) h

theorem selectPC1_not (key : Word) : selectPC1 (~~~key) = ~~~selectPC1 key := select_not rfl (by decide) key

theorem selectPC2_not (y : KeyState) : selectPC2 (~~~y) = ~~~selectPC2 y := select_not rfl (by decide) y

theorem keyState_not (key : Word) {i : Nat} (hi : i ≤ 16) : keyState (~~~key) i = ~~~keyState key i := by
  induction i with
  | zero => exact selectPC1_not key
  | succ i ih =>
    rw [keyState, keyState, ih (by omega), rotlState_amt (by omega) hi, rotlState_amt (by omega) hi, halfC_not,
      halfD_not, rotateLeft_not, rotateLeft_not, BitVec.not_append]

/-- The schedule of the complemented key is the complemented schedule. -/
theorem keySchedule_not (key : Word) : keySchedule (~~~key) = (keySchedule key).map (~~~·) := by
  apply Vector.ext
  intro i hi
  simp only [keySchedule, Vector.getElem_map, Vector.getElem_ofFn]
  rw [roundKey, roundKey, keyState_not key (by omega), selectPC2_not]

/-- In `f` the two complements meet in the exclusive-or and cancel. -/
theorem roundF_not (rk : RoundKey) (h : Half) : roundF (~~~rk) (~~~h) = roundF rk h := by
  have hcancel : expandE (~~~h) ^^^ ~~~rk = expandE h ^^^ rk := by
    rw [expandE_not, ← BitVec.not_xor_left, ← BitVec.not_xor_right, BitVec.not_not]
  rw [roundF, roundF, hcancel]

/-- Both halves complemented. -/
def complementHalves (h : Half × Half) : Half × Half := (~~~h.1, ~~~h.2)

theorem feistelRound_complement (h : Half × Half) (k : RoundKey) :
    feistelRound (complementHalves h) (~~~k) = complementHalves (feistelRound h k) := by
  simp only [feistelRound, complementHalves, roundF_not, BitVec.not_xor_left]

theorem roundsOf_complement (keys : List RoundKey) (h : Half × Half) :
    roundsOf (keys.map (~~~·)) (complementHalves h) = complementHalves (roundsOf keys h) := by
  induction keys generalizing h with
  | nil => rfl
  | cons k ks ih =>
    calc roundsOf ((k :: ks).map (~~~·)) (complementHalves h)
        = roundsOf (ks.map (~~~·)) (feistelRound (complementHalves h) (~~~k)) := rfl
      _ = complementHalves (roundsOf ks (feistelRound h k)) := by rw [feistelRound_complement, ih]

theorem startHalves_not (x : Word) : startHalves (~~~x) = complementHalves (startHalves x) := by
  simp only [startHalves, complementHalves, permIP_not, leftHalf_not, rightHalf_not]

theorem feistel_complement (keys : List RoundKey) (x : Word) :
    feistel (keys.map (~~~·)) (~~~x) = ~~~feistel keys x := by
  have hend : roundsOf (keys.map (~~~·)) (startHalves (~~~x)) = complementHalves (roundsOf keys (startHalves x)) := by
    rw [startHalves_not, roundsOf_complement]
  rw [feistel, hend, complementHalves, ← BitVec.not_append]
  exact permFP_not _

theorem encipher_complement (key x : Word) :
    encipher (keySchedule (~~~key)) (~~~x) = ~~~encipher (keySchedule key) x := by
  rw [encipher, keySchedule_not, Vector.toList_map, feistel_complement, encipher]

/-- Settles O31: every stage outside `f` commutes with the complement, and `f` does not see it. -/
theorem encipherComplement : Obligations.EncipherComplement := by
  intro key x
  have hnot := cipherYields_enc (keySchedule (~~~key)) (~~~x)
  rw [encipher_complement] at hnot
  exact ⟨_, _, _, ksWrites_keySchedule key, ksWrites_keySchedule (~~~key), cipherYields_enc _ x, hnot⟩

/-! ### CHECK (R196, R197) -/

theorem selfCheck_iff (set : List KnownAnswer) : selfCheck set = true ↔ ∀ t ∈ set, TriplePasses t := by
  simp only [selfCheck, List.all_eq_true, triplePasses_iff]

theorem exec_check_of_pass {s : State} {p : Pending} (hp : s.pending = some p)
    (h : selfCheck s.params.selfcheckSet = true) :
    ∃ d, exec .check s =
      .next { s with pending := none, busy := false, done := true, chkd := true, chkp := true, datapath := d } := by
  have hpass : selfCheck (retire s).params.selfcheckSet = true := h
  rw [exec, execCheck, complete_of_pending hp, if_pos hpass]
  exact ⟨_, rfl⟩

theorem exec_check_of_fail {s : State} {p : Pending} (hp : s.pending = some p)
    (h : ¬ selfCheck s.params.selfcheckSet = true) :
    exec .check s = .next { errorState s p .selfcheckFail with chkd := true, chkp := false } := by
  have hfail : ¬ selfCheck (retire s).params.selfcheckSet = true := h
  rw [exec, execCheck, complete_of_pending hp, if_neg hfail]
  rfl

/-- Settles O34: the model's check of the set is the conjunction over its triples. -/
theorem selfCheckResult : Obligations.SelfCheckResult := by
  refine ⟨by decide, fun s p hp => ⟨fun hall => ?_, fun hsome => ?_⟩⟩
  · exact exec_check_of_pass hp ((selfCheck_iff _).2 hall)
  · obtain ⟨t, ht, hbad⟩ := hsome
    exact exec_check_of_fail hp fun h => hbad ((selfCheck_iff _).1 h t ht)

/-- One direction of a triple is enough: DEC undoes ENC, so the other follows. -/
theorem checkTriple_of_encipher {t : KnownAnswer} (h : encipher (keySchedule t.key) t.plain = t.cipher) :
    checkTriple t = true := by
  have hdec : decipher (keySchedule t.key) t.cipher = t.plain := by rw [← h, decipher_encipher]
  simp [checkTriple, h, hdec]

/-- The known answers of R196. -/
theorem encipher_defaultSelfCheckSet :
    ∀ t ∈ defaultSelfCheckSet, encipher (keySchedule t.key) t.plain = t.cipher := by decide +kernel

theorem selfCheck_defaultSelfCheckSet : selfCheck defaultSelfCheckSet = true :=
  List.all_eq_true.2 fun t ht => checkTriple_of_encipher (encipher_defaultSelfCheckSet t ht)

/-- Settles O35: the set is the default set, which passes. -/
theorem defaultSelfCheckPasses : Obligations.DefaultSelfCheckPasses := by
  intro s p hp hset
  have hdefault : s.params.selfcheckSet = defaultSelfCheckSet := hset
  exact exec_check_of_pass hp (hdefault ▸ selfCheck_defaultSelfCheckSet)

end Sys2Proof.Machine

/-! Proofs of the family 60_exceptions.md: the busy violation and the error state (R213 to R218). -/

namespace Sys2Proof.Machine

open Sys2Proof.Spec

/-! ### Accesses that leave the error record alone (R57, R215) -/

/-- BUSY, ERR, ERRCODE, ERROPC and the pending record are as they were. -/
def KeepsErrorRecord (s t : State) : Prop :=
  t.busy = s.busy ∧ t.err = s.err ∧ t.errcode = s.errcode ∧ t.erropc = s.erropc ∧ t.pending = s.pending

theorem KeepsErrorRecord.refl (s : State) : KeepsErrorRecord s s := ⟨rfl, rfl, rfl, rfl, rfl⟩

theorem readSlot_keepsErrorRecord (slot : Slot) (s : State) : KeepsErrorRecord s (readSlot slot s) := by
  obtain ⟨v, d, h⟩ := readSlot_eq slot s
  rw [h]
  exact ⟨rfl, rfl, rfl, rfl, rfl⟩

/-- In the error state CMD ignores a write, and A and B only store it (R215). -/
theorem writeSlot_keepsErrorRecord {s : State} (hbusy : s.busy = false) (herr : s.err = true) (slot : Slot)
    (v : Word) : KeepsErrorRecord s (writeSlot slot v s) := by
  unfold writeSlot
  split
  · exact .refl s
  · cases slot with
    | cmd =>
      have hignored : writeCmd v s = s := by simp [writeCmd, hbusy, herr]
      rw [hignored]
      exact .refl s
    | a =>
      have hstored : writeA v s = { s with a := v, aWritten := true } := by simp [writeA, hbusy]
      rw [hstored]
      exact ⟨rfl, rfl, rfl, rfl, rfl⟩
    | b =>
      have hstored : writeB v s = { s with b := v, bWritten := true } := by simp [writeB, hbusy]
      rw [hstored]
      exact ⟨rfl, rfl, rfl, rfl, rfl⟩
    | status | r | unmapped | rk _ => exact .refl s

/-- What holds of `body` at every slot holds after an access that goes on. -/
theorem of_access_eq_next {P : State → Prop} {s t : State} {addr size : Nat} {body : Slot → State}
    (hbody : ∀ slot, P (body slot)) (h : access s addr size body = .next t) : P t := by
  obtain ⟨_, _, rfl⟩ := access_eq_next_iff.1 h
  exact hbody _

/-! ### The error state (R215, R218) -/

/-- ERR is bit 2 of STATUS (R26). -/
theorem getLsbD_statusWord_err (s : State) : (statusWord s).getLsbD 2 = s.err := by
  simp [statusWord, zext]

/-- Nothing is pending in the error state (R35, R215). -/
theorem State.Inv.idle_of_err {s : State} (h : s.Inv) (herr : s.err = true) : s.busy = false ∧ s.pending = none := by
  have hbusy := h.err_not_busy herr
  have hpending := h.busy_iff_pending
  rw [hbusy] at hpending
  exact ⟨hbusy, by simpa using hpending.symm⟩

/-- Reset is not asserted in the error state: STATUS would be 0 (R240). -/
theorem State.Inv.resetLine_of_err {s : State} (h : s.Inv) (herr : s.err = true) : s.resetLine = false := by
  cases hline : s.resetLine with
  | false => rfl
  | true =>
    obtain ⟨_, hstatus, _⟩ := h.held_in_reset hline
    have hbit := getLsbD_statusWord_err s
    simp [hstatus, herr] at hbit

/-- From an idle error state with reset released, every event but the assertion of reset keeps the error record. -/
theorem handle_keepsErrorRecord {ev : Event} {s t : State} (herr : s.err = true) (hbusy : s.busy = false)
    (hpending : s.pending = none) (hline : s.resetLine = false) (hev : ev ≠ .assertReset)
    (h : handle ev s = .next t) : KeepsErrorRecord s t := by
  cases ev with
  | write addr size v => exact of_access_eq_next (fun slot => writeSlot_keepsErrorRecord hbusy herr slot v) h
  | read addr size => exact of_access_eq_next (fun slot => readSlot_keepsErrorRecord slot s) h
  | engine =>
    obtain rfl : s = t := by simpa [handle, engineTurn_of_idle hpending] using h
    exact .refl s
  | assertReset => exact absurd rfl hev
  | releaseReset =>
    obtain rfl : s = t := by simpa [handle, hline] using h
    exact .refl s

/-- Settles O54: the invariant makes the error state idle with reset released, and there only an assertion of reset
touches the error record. -/
theorem errorIsStickyUntilReset : Obligations.ErrorIsStickyUntilReset := by
  intro s t hinv herr hstep
  obtain ⟨hbusy, hpending⟩ := hinv.idle_of_err herr
  cases hinbox : s.inbox with
  | nil =>
    rw [step_of_no_event hinbox, engineTurn_of_idle hpending] at hstep
    obtain rfl : s = t := by simpa using hstep
    exact .inl ⟨herr, rfl, rfl, hpending, by simp⟩
  | cons ev rest =>
    rw [step_of_event hinbox] at hstep
    by_cases hev : ev = .assertReset
    · subst hev
      obtain rfl : assertReset { s with inbox := rest } = t := by simpa [handle] using hstep
      exact .inr ⟨rfl, rest, rfl⟩
    · obtain ⟨_, hkerr, hkcode, hkopc, hkpending⟩ := handle_keepsErrorRecord (s := { s with inbox := rest })
        herr hbusy hpending (hinv.resetLine_of_err herr) hev hstep
      exact .inl ⟨hkerr.trans herr, hkcode, hkopc, hkpending.trans hpending, by simp [hev]⟩

/-! ### The busy violation (R213) -/

/-- The slots that a host write changes stand at the slot numbers 0, 2 and 3 of the window (R51). -/
theorem exists_slotNumber_of_writable {off : Nat} (h : off ∈ [0x00, 0x10, 0x18]) :
    ∃ n < 32, off = 8 * n ∧ slotAt off ∈ [.cmd, .a, .b] := by
  simp only [List.mem_cons, List.not_mem_nil, or_false] at h
  rcases h with rfl | rfl | rfl
  · exact ⟨0, by decide, rfl, by decide⟩
  · exact ⟨2, by decide, rfl, by decide⟩
  · exact ⟨3, by decide, rfl, by decide⟩

/-- While a command is pending, a write to CMD, A or B ends it in BUSY_VIOLATION and stores nothing. -/
theorem writeSlot_of_busy {s : State} {p : Pending} (hline : s.resetLine = false) (hbusy : s.busy = true)
    (hp : s.pending = some p) {slot : Slot} (hslot : slot ∈ [.cmd, .a, .b]) (v : Word) :
    writeSlot slot v s = errorState s p .busyViolation := by
  have hviolation : writeSlot slot v s = busyViolation s := by
    simp only [List.mem_cons, List.not_mem_nil, or_false] at hslot
    rcases hslot with rfl | rfl | rfl <;> simp [writeSlot, writeCmd, writeA, writeB, hline, hbusy]
  rw [hviolation, busyViolation_of_pending hp]
  rfl

/-- An accepted host read at slot number `n` of the window is the read of that slot. -/
theorem hostRead_at {s : State} {n : Nat} (hn : n < 32) :
    hostRead (s.params.desBase + 8 * n) 8 s = .next (readSlot (slotAt (8 * n)) s) :=
  access_at hn _

/-- Settles O43: the write reaches one of the three slots of `writeSlot_of_busy`, and a read keeps the error record. -/
theorem busyViolationDiscards : Obligations.BusyViolationDiscards := by
  refine ⟨fun s p off v rest hinbox hline hbusy hp hoff => ?_, fun s n rest hinbox hn hbusy => ?_⟩
  · obtain ⟨n, hn, rfl, hslot⟩ := exists_slotNumber_of_writable hoff
    calc step s
        = hostWrite (s.params.desBase + 8 * n) 8 v { s with inbox := rest } := step_of_event hinbox
      _ = .next (writeSlot (slotAt (8 * n)) v { s with inbox := rest }) := hostWrite_at hn v _
      _ = .next (errorState { s with inbox := rest } p .busyViolation) :=
          congrArg _ (writeSlot_of_busy (s := { s with inbox := rest }) hline hbusy hp hslot v)
  · have hstep : step s = .next (readSlot (slotAt (8 * n)) { s with inbox := rest }) :=
      (step_of_event hinbox).trans (hostRead_at (s := { s with inbox := rest }) hn)
    obtain ⟨hkbusy, hkerr, hkcode, hkopc, hkpending⟩ :=
      readSlot_keepsErrorRecord (slotAt (8 * n)) { s with inbox := rest }
    exact ⟨_, hstep, hkbusy.trans hbusy, hkerr, hkcode, hkopc, hkpending⟩

end Sys2Proof.Machine

/-! Proofs of the family 70_reset_and_hazards.md: the release of reset (R240 to R242). -/

namespace Sys2Proof.Machine

/-! ### The first read after reset (R242) -/

theorem statusWord_reset : statusWord State.reset = 0 := by decide

/-- STATUS depends only on fields that the release of reset puts at their reset values (R240). -/
theorem statusWord_releaseReset (s : State) : statusWord (releaseReset s) = 0 := statusWord_reset

/-- The release of an asserted reset is the next event. -/
theorem step_of_release {s : State} {rest : List Event} (hline : s.resetLine = true)
    (hinbox : s.inbox = .releaseReset :: rest) : step s = .next (releaseReset { s with inbox := rest }) :=
  calc step s
      = handle .releaseReset { s with inbox := rest } := step_of_event hinbox
    _ = .next (releaseReset { s with inbox := rest }) := by simp [handle, hline]

/-- With reset released a read of STATUS gets the status word, whatever the block is doing (R51, R59). -/
theorem readSlot_status {s : State} (h : s.resetLine = false) :
    readSlot .status s = reply (statusWord s) s := by
  simp [readSlot, slotValue, h]

/-- With reset released a read of STATUS is served in one step, wherever the window stands. -/
theorem step_of_rd_status {s : State} {rest : List Event} (hline : s.resetLine = false)
    (hinbox : s.inbox = rd s.params.desBase .status :: rest) :
    step s = .next (reply (statusWord s) { s with inbox := rest }) :=
  calc step s
      = hostRead (s.params.desBase + 8 * 1) 8 { s with inbox := rest } := step_of_event hinbox
    _ = .next (readSlot .status { s with inbox := rest }) :=
        hostRead_at (s := { s with inbox := rest }) (by decide)
    _ = .next (reply (statusWord s) { s with inbox := rest }) :=
        congrArg _ (readSlot_status (s := { s with inbox := rest }) hline)

/-- A run of two steps that both go on. -/
theorem run_two {s t u : State} (hst : step s = .next t) (htu : step t = .next u) :
    Host.Core.run core 2 s = .next u := by
  simp [Host.Core.run, core, hst, htu]

/-- Settles O10: the release puts STATUS at 0 and keeps the read as the next event, which replies with STATUS. -/
theorem firstStatusReadAfterReset : Obligations.FirstStatusReadAfterReset := by
  intro s rest hline hinbox
  have hrelease := step_of_release hline hinbox
  have hread := step_of_rd_status (s := releaseReset { s with inbox := rd s.params.desBase .status :: rest }) rfl rfl
  rw [statusWord_releaseReset] at hread
  exact ⟨_, run_two hrelease hread, rfl, rfl, rfl⟩

end Sys2Proof.Machine

/-! Proofs of the family `other`: decode and encode agree (R71, R75, R76, R81). -/

namespace Sys2Proof.Machine

open Sys2Proof.Spec

/-! ### Command words (R71, R76, R81) -/

/-- Each command's row of the opcode table selects it (R72). -/
theorem commandOf_opcode (i : Instr) : commandOf (opcode i).toNat i.index = some i := by
  cases i <;> rfl

/-- The word of a command is its two fields by number. -/
theorem encode_eq_ofFields {i : Instr} (h : i.wellFormed = true) :
    encode i = BitVec.ofNat 64 (i.index * 256 + (opcode i).toNat) := by
  apply BitVec.eq_of_toNat_eq
  have hlt : (encode i).toNat < 2 ^ 64 := (encode i).isLt
  rw [toNat_encode h] at hlt
  rw [toNat_encode h, BitVec.toNat_ofNat, Nat.mod_eq_of_lt (by omega)]
  omega

theorem decode_encode {i : Instr} (h : i.wellFormed = true) : decode (encode i) = .ok i := by
  have hidx : i.index < 32 := by simpa [Instr.wellFormed] using h
  rw [encode_eq_ofFields h]
  exact decode_ofFields hidx (opcode i).isLt (commandOf_opcode i) rfl

/-- Settles O3: the two fields of the word select the command. -/
theorem decodeOfEncode : Obligations.DecodeOfEncode := fun _ h => decode_encode h

/-- Settles O4: a legal word has no bit outside its fields, and a 5-bit IDX. -/
theorem encodeOfDecode : Obligations.EncodeOfDecode := fun _ _ h =>
  ⟨(eq_encode_of_decode h).symm, wellFormed_of_decode h⟩

/-! ### Legal words (R75) -/

theorem legal_iff {v : Word} : legal v = true ↔ ∃ i, decode v = .ok i := by
  unfold legal
  cases decode v <;> simp

/-- An OPC of the table selects a command that carries the index, where it is 0 or the OPC takes one (R72 to R74). -/
theorem exists_commandOf {opc idx : Nat} (h1 : 1 ≤ opc) (h21 : opc ≤ 0x15)
    (hidx : idx = 0 ∨ opc ∈ [0x0B, 0x0F, 0x10]) : ∃ i, commandOf opc idx = some i ∧ i.index = idx := by
  rcases hidx with rfl | hindexed
  · interval_cases opc <;> exact ⟨_, rfl, rfl⟩
  · simp only [List.mem_cons, List.not_mem_nil, or_false] at hindexed
    rcases hindexed with rfl | rfl | rfl <;> exact ⟨_, rfl, rfl⟩

/-- A word that meets no clause of R75 is the word of its two fields. -/
theorem legal_of_not_illegalWord {v : Word} (h : ¬ IllegalWord v) : legal v = true := by
  simp only [IllegalWord, not_or, not_and, not_not] at h
  obtain ⟨hpos, hle, hlow, hhigh, hindex⟩ := h
  obtain ⟨i, hcmd, hidx⟩ := exists_commandOf (opc := v.toNat % 64) (idx := v.toNat / 256 % 32) (by omega) (by omega)
    ((Nat.eq_zero_or_pos _).imp_right fun hset => hindex (by omega))
  have hfields : v = BitVec.ofNat 64 (v.toNat / 256 % 32 * 256 + v.toNat % 64) := by
    apply BitVec.eq_of_toNat_eq
    rw [BitVec.toNat_ofNat, Nat.mod_eq_of_lt (by omega)]
    omega
  rw [hfields]
  exact legal_iff.2 ⟨i, decode_ofFields (by omega) (by omega) hcmd hidx⟩

/-- Settles O5: a word that meets a clause selects no command, and any other has the fields of one. -/
theorem legalWordsExactly : Obligations.LegalWordsExactly := fun v =>
  ⟨fun hlegal hill => by simp [legal_eq_false_of_illegalWord hill] at hlegal, legal_of_not_illegalWord⟩

end Sys2Proof.Machine

/-! Proofs of the family `other`: the laws of the permutation network (R121). -/

namespace Sys2Proof.Machine

open Sys2Proof.Spec

/-! ### Selections by inverse tables (R121) -/

/-- Two tables of `n` positions, each leading from every position that the other leads to back to where that one started. -/
structure InverseTables (n : Nat) (T T' : List Nat) : Prop where
  length_left : T.length = n
  length_right : T'.length = n
  range_left : ∀ j, j < n → 1 ≤ T.getD j 0 ∧ T.getD j 0 ≤ n
  range_right : ∀ j, j < n → 1 ≤ T'.getD j 0 ∧ T'.getD j 0 ≤ n
  back : ∀ j, j < n → T'.getD (T.getD j 0 - 1) 0 = j + 1
  forth : ∀ j, j < n → T.getD (T'.getD j 0 - 1) 0 = j + 1

theorem InverseTables.symm {n : Nat} {T T' : List Nat} (h : InverseTables n T T') : InverseTables n T' T :=
  ⟨h.length_right, h.length_left, h.range_right, h.range_left, h.forth, h.back⟩

theorem InverseTables.select_select {n : Nat} {T T' : List Nat} (h : InverseTables n T T') (v : BitVec n) :
    select n T (select n T' v) = v := by
  have hsel : Selects T (select n T' v) v :=
    selects_of_select h.length_right h.range_left fun j hj => by rw [h.back j hj]
  exact ((selects_iff T h.length_left _ _).1 hsel).symm

/-- A permutation of positions maps one set bit to one set bit: the one that the inverse table finds. -/
theorem InverseTables.select_twoPow {n : Nat} {T T' : List Nat} (h : InverseTables n T T') {m : Nat} (hm : m < n) :
    ∃ k, k < n ∧ select n T (BitVec.twoPow n m) = BitVec.twoPow n k := by
  obtain ⟨hpos', _⟩ := h.range_right (n - 1 - m) (by omega)
  refine ⟨n - T'.getD (n - 1 - m) 0, by omega, BitVec.eq_of_getLsbD_eq fun k hk => ?_⟩
  obtain ⟨hpos, hle⟩ := h.range_left (n - 1 - k) (by omega)
  have hsame : m = n - T.getD (n - 1 - k) 0 ↔ n - T'.getD (n - 1 - m) 0 = k := by
    constructor
    · intro hmeq
      have hentry : n - 1 - m = T.getD (n - 1 - k) 0 - 1 := by omega
      rw [hentry, h.back (n - 1 - k) (by omega)]
      omega
    · intro hkeq
      have hentry : n - 1 - k = T'.getD (n - 1 - m) 0 - 1 := by omega
      rw [hentry, h.forth (n - 1 - m) (by omega)]
      omega
  have hin : n - T'.getD (n - 1 - m) 0 < n := by omega
  rw [select_getLsbD T _ h.length_left k hk, BitVec.getLsbD_twoPow, BitVec.getLsbD_twoPow]
  simp only [hm, hin, hsame, decide_true, Bool.true_and]

theorem inverseTables_IP_FP : InverseTables 64 tableIP tableFP :=
  ⟨rfl, rfl, by decide, by decide, by decide, by decide⟩

theorem inverseTables_P_PINV : InverseTables 32 tableP tablePINV :=
  ⟨rfl, rfl, by decide, by decide, by decide, by decide⟩

theorem permP_permPINV (x : Half) : permP (permPINV x) = x := inverseTables_P_PINV.select_select x

theorem permPINV_permP (x : Half) : permPINV (permP x) = x := inverseTables_P_PINV.symm.select_select x

theorem selectPC1_inversePC1 (y : KeyState) : selectPC1 (inversePC1 y) = y :=
  ((selects_iff listPC1 rfl _ _).1 (selects_inversePC1 y)).symm

theorem selectPC2_inversePC2 (k : RoundKey) : selectPC2 (inversePC2 k) = k :=
  ((selects_iff listPC2 rfl _ _).1 (selects_inversePC2 k)).symm

/-! ### The commands that select (R100, R101) -/

theorem yields_congr {i : Instr} {m n : Nat} {a : BitVec m} {v v' : BitVec n} (hv : v = v') (h : Yields i a v) :
    Yields i a v' := hv ▸ h

theorem yields_ip (x : Word) : Yields .ip x (permIP x) := yields_of_unary (by omega) (fun _ => rfl) x
theorem yields_fp (x : Word) : Yields .fp x (permFP x) := yields_of_unary (by omega) (fun _ => rfl) x
theorem yields_e (x : Half) : Yields .e x (expandE x) := yields_of_unary (by omega) (fun _ => rfl) x
theorem yields_p (x : Half) : Yields .p x (permP x) := yields_of_unary (by omega) (fun _ => rfl) x
theorem yields_pinv (x : Half) : Yields .pinv x (permPINV x) := yields_of_unary (by omega) (fun _ => rfl) x
theorem yields_pc1 (x : Word) : Yields .pc1 x (selectPC1 x) := yields_of_unary (by omega) (fun _ => rfl) x
theorem yields_pc1inv (y : KeyState) : Yields .pc1inv y (inversePC1 y) := yields_of_unary (by omega) (fun _ => rfl) y
theorem yields_pc2 (y : KeyState) : Yields .pc2 y (selectPC2 y) := yields_of_unary (by omega) (fun _ => rfl) y
theorem yields_pc2inv (k : RoundKey) : Yields .pc2inv k (inversePC2 k) := yields_of_unary (by omega) (fun _ => rfl) k

/-! ### EINV on an expansion (R106, R108) -/

/-- EINV on any 48-bit operand: the duplicated pairs decide. -/
theorem execEinv_of_setWidth {s : State} {p : Pending} (hp : s.pending = some p) {v : RoundKey}
    (ha : p.a = v.setWidth 64) :
    exec .einv s = .next (if mismatchE v then errorState s p .eMismatch
      else resultState s ((contractE v).setWidth 64)) := by
  have hlt : p.a.toNat < 2 ^ 48 := by
    rw [ha, BitVec.toNat_setWidth_of_le (by omega)]
    exact v.isLt
  have hv : p.a.setWidth 48 = v := by rw [ha, BitVec.setWidth_setWidth_of_le v (by omega), BitVec.setWidth_eq]
  rw [execEinv_of_lt hp hlt, hv]

/-- The two positions of a pair copy one input bit of E. -/
theorem dbit_expandE_pair (x : Half) {k : Nat × Nat} (hk : k ∈ listPairs) :
    dbit (expandE x) k.1 = dbit (expandE x) k.2 := by
  have hcopy : ∀ k ∈ listPairs, tableE.getD (k.1 - 1) 0 = tableE.getD (k.2 - 1) 0 := by decide
  obtain ⟨⟨h1, h1'⟩, h2, h2'⟩ := mem_listPairs_range k hk
  rw [expandE, dbit_select (n := 48) tableE x rfl _ h1 h1', dbit_select (n := 48) tableE x rfl _ h2 h2', hcopy k hk]

theorem mismatchE_expandE (x : Half) : mismatchE (expandE x) = false :=
  (mismatchE_eq_false_iff _).2 fun _ hk => dbit_expandE_pair x hk

/-- Each input bit of E stands at its first copy, so EINV finds it there. -/
theorem contractE_expandE (x : Half) : contractE (expandE x) = x := by
  have hfirst : ∀ j, j < 32 → 1 ≤ tableEINV.getD j 0 ∧ tableEINV.getD j 0 ≤ 48 ∧
      tableE.getD (tableEINV.getD j 0 - 1) 0 = j + 1 := by decide
  have hsel : Selects tableEINV (expandE x) x := by
    refine selects_of_select rfl (fun j hj => ?_) fun j hj => ?_
    · obtain ⟨hpos, hle, _⟩ := hfirst j hj
      exact ⟨hpos, hle⟩
    · obtain ⟨_, _, hback⟩ := hfirst j hj
      rw [hback]
  exact ((selects_iff tableEINV rfl _ _).1 hsel).symm

theorem yields_einv_expandE (x : Half) : Yields .einv (expandE x) x := by
  intro s p hp ha
  rw [execEinv_of_setWidth hp ha, mismatchE_expandE, contractE_expandE, if_neg Bool.false_ne_true]

theorem raises_einv_of_mismatch {v : RoundKey} (h : mismatchE v = true) : Raises .einv v .eMismatch := by
  intro s p hp ha
  rw [execEinv_of_setWidth hp ha, if_pos h]

/-- Exclusive-or with the bit at DES position `i` flips that position and no other. -/
theorem dbit_xor_twoPow {W : Nat} (v : BitVec W) {i j : Nat} (hi : 1 ≤ i ∧ i ≤ W) (hj : 1 ≤ j ∧ j ≤ W) :
    dbit (v ^^^ BitVec.twoPow W (W - i)) j = (dbit v j ^^ decide (j = i)) := by
  have hlt : W - i < W := by omega
  have hsame : W - i = W - j ↔ j = i := by omega
  simp only [dbit, BitVec.getLsbD_xor, BitVec.getLsbD_twoPow, hlt, hsame, decide_true, Bool.true_and]

/-- An expansion with one copy of a pair flipped is no expansion. -/
theorem mismatchE_flipped (x : Half) {k : Nat × Nat} (hk : k ∈ listPairs) {i : Nat} (hi : i = k.1 ∨ i = k.2) :
    mismatchE (expandE x ^^^ BitVec.twoPow 48 (48 - i)) = true := by
  have hdistinct : ∀ k ∈ listPairs, k.1 ≠ k.2 := by decide
  have hne := hdistinct k hk
  obtain ⟨h1, h2⟩ := mem_listPairs_range k hk
  rw [← Bool.not_eq_false, mismatchE_eq_false_iff]
  intro hall
  have hpair := hall k hk
  rcases hi with rfl | rfl
  · rw [dbit_xor_twoPow _ h1 h1, dbit_xor_twoPow _ h1 h2, dbit_expandE_pair x hk] at hpair
    simp [hne.symm] at hpair
  · rw [dbit_xor_twoPow _ h2 h1, dbit_xor_twoPow _ h2 h2, dbit_expandE_pair x hk] at hpair
    simp [hne] at hpair

/-- Settles O19: each law is one of the functions above, run as commands. -/
theorem permutationLaws : Obligations.PermutationLaws := by
  refine ⟨fun x => ⟨permFP x, yields_fp x, ?_⟩, fun x => ⟨permIP x, yields_ip x, ?_⟩,
    fun x => ⟨permPINV x, yields_pinv x, ?_⟩, fun x => ⟨permP x, yields_p x, ?_⟩,
    fun x => ⟨expandE x, yields_e x, yields_einv_expandE x, fun k hk => ⟨?_, ?_⟩⟩,
    fun y => ⟨inversePC1 y, yields_pc1inv y, ?_⟩, fun k => ⟨inversePC2 k, yields_pc2inv k, ?_⟩,
    fun m hm => ?_, fun m hm => ?_⟩
  · exact yields_congr (permIP_permFP x) (yields_ip _)
  · exact yields_congr (permFP_permIP x) (yields_fp _)
  · exact yields_congr (permP_permPINV x) (yields_p _)
  · exact yields_congr (permPINV_permP x) (yields_pinv _)
  · exact raises_einv_of_mismatch (mismatchE_flipped x hk (.inl rfl))
  · exact raises_einv_of_mismatch (mismatchE_flipped x hk (.inr rfl))
  · exact yields_congr (selectPC1_inversePC1 y) (yields_pc1 _)
  · exact yields_congr (selectPC2_inversePC2 k) (yields_pc2 _)
  · obtain ⟨n, hn, hip⟩ := inverseTables_IP_FP.select_twoPow hm
    obtain ⟨n', hn', hfp⟩ := inverseTables_IP_FP.symm.select_twoPow hm
    exact ⟨n, n', hn, hn', yields_congr hip (yields_ip _), yields_congr hfp (yields_fp _)⟩
  · obtain ⟨n, hn, hp⟩ := inverseTables_P_PINV.select_twoPow hm
    obtain ⟨n', hn', hpinv⟩ := inverseTables_P_PINV.symm.select_twoPow hm
    exact ⟨n, n', hn, hn', yields_congr hp (yields_p _), yields_congr hpinv (yields_pinv _)⟩

end Sys2Proof.Machine

/-! Proofs of the family `other`: the laws of the key schedule (R164, R165). -/

namespace Sys2Proof.Machine

open Sys2Proof.Spec

/-! ### The derivation comes back to its start (R164) -/

/-- How far the sub-halves have been rotated after `i` rounds (R160). -/
def totalRotation : Nat → Nat
  | 0 => 0
  | i + 1 => totalRotation i + rotationAmount (i + 1)

/-- A left rotation takes the bit at `k` to the position `r` higher, around the end. -/
theorem getLsbD_rotateLeft_add {w : Nat} (x : BitVec w) (r : Nat) {k : Nat} (hk : k < w) :
    (x.rotateLeft r).getLsbD ((k + r) % w) = x.getLsbD k := by
  have hr : r % w < w := Nat.mod_lt _ (by omega)
  rw [Nat.add_mod, Nat.mod_eq_of_lt hk, BitVec.getLsbD_rotateLeft]
  rcases Nat.lt_or_ge (k + r % w) w with hlow | hwrap
  · have hup : ¬ k + r % w < r % w := by omega
    simp [Nat.mod_eq_of_lt hlow, hup, hlow]
  · have hdown : (k + r % w) % w = k + r % w - w := by
      rw [Nat.mod_eq_sub_mod hwrap, Nat.mod_eq_of_lt (by omega)]
    have hlow : k + r % w - w < r % w := by omega
    have hpos : w - r % w + (k + r % w - w) = k := by omega
    simp [hdown, hlow, hpos]

/-- `y` is `x` rotated left by `r`, bit by bit, however large `r` is. -/
def IsRotated {w : Nat} (r : Nat) (x y : BitVec w) : Prop :=
  ∀ k, k < w → y.getLsbD ((k + r) % w) = x.getLsbD k

theorem IsRotated.rotateLeft {w r : Nat} {x y : BitVec w} (h : IsRotated r x y) (r' : Nat) :
    IsRotated (r + r') x (y.rotateLeft r') := by
  intro k hk
  have hmod : (k + (r + r')) % w = ((k + r) % w + r') % w := by rw [Nat.mod_add_mod, Nat.add_assoc]
  rw [hmod, getLsbD_rotateLeft_add y r' (Nat.mod_lt _ (by omega)), h k hk]

/-- A rotation by the width is no rotation. -/
theorem IsRotated.eq {w : Nat} {x y : BitVec w} (h : IsRotated w x y) : y = x := by
  apply BitVec.eq_of_getLsbD_eq
  intro k hk
  simpa [Nat.mod_eq_of_lt hk] using h k hk

/-- After `i` rounds each sub-half is the first one rotated by the total so far. -/
theorem keyState_isRotated (key : Word) {i : Nat} (hi : i ≤ 16) :
    IsRotated (totalRotation i) (halfC (keyState key 0)) (halfC (keyState key i)) ∧
      IsRotated (totalRotation i) (halfD (keyState key 0)) (halfD (keyState key i)) := by
  induction i with
  | zero => constructor <;> intro k hk <;> rw [totalRotation, Nat.add_zero, Nat.mod_eq_of_lt hk]
  | succ i ih =>
    obtain ⟨hC, hD⟩ := ih (by omega)
    have hnext : keyState key (i + 1) = rotlState (amt (i + 1)) (keyState key i) := rfl
    rw [hnext, rotlState_amt (by omega) hi, halfC_append, halfD_append]
    exact ⟨hC.rotateLeft _, hD.rotateLeft _⟩

/-- Sixteen rounds rotate by 28, the width of a sub-half (R164). -/
theorem keyState_sixteen (key : Word) : keyState key 16 = keyState key 0 := by
  obtain ⟨hC, hD⟩ := keyState_isRotated key (i := 16) (by omega)
  have htotal : totalRotation 16 = 28 := by decide
  rw [htotal] at hC hD
  rw [← halfC_append_halfD (keyState key 16), hC.eq, hD.eq, halfC_append_halfD]

/-! ### Parity bits (R165) -/

/-- PC1 selects only key bits of the mask that leaves the parity bits out. -/
theorem selectPC1_eq_of_and_eq {key key' : Word}
    (h : key &&& 0xFEFEFEFEFEFEFEFE = key' &&& 0xFEFEFEFEFEFEFEFE) : selectPC1 key = selectPC1 key' := by
  have hmask : ∀ j, j < 56 → (0xFEFEFEFEFEFEFEFE : Word).getLsbD (64 - tablePC1.getD j 0) = true := by decide
  apply BitVec.eq_of_getLsbD_eq
  intro k hk
  have hbit := congrArg (fun v => v.getLsbD (64 - tablePC1.getD (56 - 1 - k) 0)) h
  simp only [BitVec.getLsbD_and, hmask (56 - 1 - k) (by omega), Bool.and_true] at hbit
  rw [selectPC1, selectPC1, select_getLsbD (n := 56) tablePC1 _ rfl k hk,
    select_getLsbD (n := 56) tablePC1 _ rfl k hk, hbit]

/-- Nothing of the key but what PC1 selects reaches the schedule. -/
theorem keySchedule_congr {key key' : Word} (h : selectPC1 key = selectPC1 key') :
    keySchedule key = keySchedule key' := by
  have hstate : ∀ i, keyState key i = keyState key' i := by
    intro i
    induction i with
    | zero => exact h
    | succ i ih => rw [keyState, keyState, ih]
  simp only [keySchedule, roundKey, hstate]

/-- Settles O26: `y i` is the state of the derivation after `i` rounds. -/
theorem keyScheduleLaws : Obligations.KeyScheduleLaws := by
  refine ⟨fun key => ⟨keySchedule key, keyState key, ksWrites_keySchedule key, yields_pc1 key,
    keyState_sixteen key, fun i hi => ⟨?_, ?_, ?_⟩⟩, fun key key' hsame => ⟨keySchedule key, ?_, ?_⟩⟩
  · exact yields_rotl (by omega) (by omega) (keyState key i)
  · exact yields_congr (rotrState_rotlState (by omega) (by omega) _) (yields_rotr (by omega) (by omega) _)
  · exact yields_congr (forward_keySchedule key hi).symm (yields_pc2 _)
  · exact ksWrites_keySchedule key
  · rw [keySchedule_congr (selectPC1_eq_of_and_eq hsame)]
    exact ksWrites_keySchedule key'

end Sys2Proof.Machine

/-! Proofs of the family `other`: what the completion of a command changes and what it leaves alone (R36, R211 to R217). -/

namespace Sys2Proof.Machine

open Sys2Proof.Spec

/-! ### The errors of each command (R211) -/

/-- What Complete performs leaves ERR as it was, or is the error entry of one of these codes and nothing else. -/
def RaisesOnly (codes : List ErrCode) (body : Pending → State → State) : Prop :=
  ∀ (p : Pending) (s : State), (body p s).err = s.err ∨ ∃ code ∈ codes, body p s = raiseErr code p s

theorem raisesOnly_raiseErr {codes : List ErrCode} {code : ErrCode} (h : code ∈ codes) :
    RaisesOnly codes (raiseErr code) := fun _ _ => .inr ⟨code, h, rfl⟩

theorem raisesOnly_ite {codes : List ErrCode} {c : Pending → State → Bool} {f g : Pending → State → State}
    (hf : RaisesOnly codes f) (hg : RaisesOnly codes g) :
    RaisesOnly codes fun p s => if c p s then f p s else g p s := by
  intro p s
  dsimp only
  split
  · exact hf p s
  · exact hg p s

theorem raisesOnly_withWidth {codes : List ErrCode} {W : Nat} {v : Pending → Word}
    {body : BitVec W → Pending → State → State} (hwidth : .width ∈ codes) (hb : ∀ w, RaisesOnly codes (body w)) :
    RaisesOnly codes fun p s => withWidth W (v p) p s fun w => body w p s :=
  raisesOnly_ite (fun p s => hb _ p s) (raisesOnly_raiseErr hwidth)

theorem raisesOnly_unary {codes : List ErrCode} {W n : Nat} (hwidth : .width ∈ codes) (fn : BitVec W → BitVec n) :
    RaisesOnly codes (unary W fn) :=
  raisesOnly_withWidth hwidth fun _ _ _ => .inl rfl

/-- A command of one 64-bit operand has no error: nothing is too wide for it (R78). -/
theorem raisesOnly_unary_64 {n : Nat} (fn : Word → BitVec n) : RaisesOnly [] (unary 64 fn) := by
  intro p s
  rw [unary_of_fits (fits_64 p.a)]
  exact .inl rfl

theorem raisesOnly_indexed {codes : List ErrCode} {W n : Nat} {bad : Prop} [Decidable bad] {code : ErrCode}
    (hcode : code ∈ codes) (hwidth : .width ∈ codes) (fn : BitVec W → BitVec n) :
    RaisesOnly codes fun p s => if bad then raiseErr code p s else unary W fn p s := by
  by_cases hbad : bad
  · simpa only [if_pos hbad] using raisesOnly_raiseErr hcode
  · simpa only [if_neg hbad] using raisesOnly_unary hwidth fn

/-- Every command but CHECK is Complete (R34) with a body that raises only the codes R211 lists for the command. -/
theorem exec_raisesOnly {i : Instr} (hi : i ≠ .check) :
    ∃ body, (∀ s, exec i s = complete s body) ∧ RaisesOnly (codesOf i) body := by
  cases i with
  | ip => exact ⟨_, fun _ => rfl, raisesOnly_unary_64 permIP⟩
  | fp => exact ⟨_, fun _ => rfl, raisesOnly_unary_64 permFP⟩
  | e => exact ⟨_, fun _ => rfl, raisesOnly_unary (by simp [codesOf]) expandE⟩
  | einv =>
    refine ⟨_, fun _ => by rw [exec, execEinv], raisesOnly_withWidth (by simp [codesOf]) fun v => ?_⟩
    exact raisesOnly_ite (raisesOnly_raiseErr (by simp [codesOf])) fun _ _ => .inl rfl
  | p => exact ⟨_, fun _ => rfl, raisesOnly_unary (by simp [codesOf]) permP⟩
  | pinv => exact ⟨_, fun _ => rfl, raisesOnly_unary (by simp [codesOf]) permPINV⟩
  | pc1 => exact ⟨_, fun _ => rfl, raisesOnly_unary_64 selectPC1⟩
  | pc1inv => exact ⟨_, fun _ => rfl, raisesOnly_unary (by simp [codesOf]) inversePC1⟩
  | pc2 => exact ⟨_, fun _ => rfl, raisesOnly_unary (by simp [codesOf]) selectPC2⟩
  | pc2inv => exact ⟨_, fun _ => rfl, raisesOnly_unary (by simp [codesOf]) inversePC2⟩
  | sbox idx => exact ⟨_, fun _ => rfl, raisesOnly_indexed (by simp [codesOf]) (by simp [codesOf]) (sbox idx)⟩
  | sboxes => exact ⟨_, fun _ => rfl, raisesOnly_unary (by simp [codesOf]) sboxes⟩
  | lhalf => exact ⟨_, fun _ => rfl, raisesOnly_unary_64 leftHalf⟩
  | rhalf => exact ⟨_, fun _ => rfl, raisesOnly_unary_64 rightHalf⟩
  | rotl idx =>
    exact ⟨_, fun _ => rfl, raisesOnly_indexed (by simp [codesOf]) (by simp [codesOf]) (rotlState (amt idx))⟩
  | rotr idx =>
    exact ⟨_, fun _ => rfl, raisesOnly_indexed (by simp [codesOf]) (by simp [codesOf]) (rotrState (amt idx))⟩
  | f =>
    refine ⟨_, fun _ => by rw [exec, execF], raisesOnly_withWidth (by simp [codesOf]) fun rk => ?_⟩
    exact raisesOnly_withWidth (by simp [codesOf]) fun _ _ _ => .inl rfl
  | ks =>
    refine ⟨_, fun _ => by rw [exec, execKs], ?_⟩
    exact fun _ _ => .inl rfl
  | enc =>
    refine ⟨_, fun _ => by rw [exec, execEnc], ?_⟩
    exact raisesOnly_ite (fun _ _ => .inl rfl) (raisesOnly_raiseErr (by simp [codesOf]))
  | dec =>
    refine ⟨_, fun _ => by rw [exec, execDec], ?_⟩
    exact raisesOnly_ite (fun _ _ => .inl rfl) (raisesOnly_raiseErr (by simp [codesOf]))
  | check => exact absurd rfl hi

/-- A failed self-check is SELFCHECK_FAIL with its report (R197). -/
theorem exec_check_err {s t : State} {p : Pending} (hp : s.pending = some p) (herr : s.err = false)
    (h : exec .check s = .next t) (hterr : t.err = true) :
    t = { errorState s p .selfcheckFail with chkd := true, chkp := false } := by
  by_cases hpass : selfCheck s.params.selfcheckSet = true
  · obtain ⟨d, hd⟩ := exec_check_of_pass hp hpass
    rw [hd] at h
    cases h
    exact absurd hterr (by simp [herr])
  · rw [exec_check_of_fail hp hpass] at h
    cases h
    rfl

/-- Settles O36: where ERR was 0, the body can only have been the error entry of a code of its own. -/
theorem errorsArePrecise : Obligations.ErrorsArePrecise := by
  intro i s p t hp herr h hterr
  by_cases hi : i = .check
  · subst hi
    exact ⟨.selfcheckFail, by simp [codesOf], by rw [if_pos rfl, exec_check_err hp herr h hterr]⟩
  · obtain ⟨body, hexec, hbody⟩ := exec_raisesOnly hi
    rw [hexec, complete_of_pending hp] at h
    cases h
    rcases hbody p (retire s) with hkeeps | ⟨code, hcode, hraise⟩
    · rw [hkeeps] at hterr
      exact absurd hterr (by simp [herr])
    · exact ⟨code, hcode, by rw [if_neg hi, hraise]; rfl⟩

/-! ### What every command leaves alone (R36) -/

/-- Settles O37: read off each of the ways in which a command can complete. -/
theorem commandFrame : Obligations.CommandFrame := by
  intro i s p t hp h
  obtain ⟨u, hu, hc⟩ := exec_completes hp i
  obtain rfl : u = t := by rw [hu] at h; cases h; rfl
  cases hc with
  | result v d hi hd ht =>
    subst ht
    simpa [hi] using hd
  | error code hi _ _ ht => subst ht; simp [hi]
  | schedule hi ht => obtain ⟨d, rfl⟩ := ht; subst hi; simp
  | checkPass hi _ ht => obtain ⟨d, rfl⟩ := ht; subst hi; simp
  | checkFail hi _ ht => subst ht hi; simp

/-! ### Operands that a command does not read (R23, R197) -/

/-- Every command but F completes in the same way whatever the second operand is: its meaning does not mention it. -/
theorem exec_congr_secondOperand {i : Instr} (hi : i ≠ .f) (s : State) (w a b b' : Word) :
    exec i { s with pending := some ⟨w, a, b⟩ } = exec i { s with pending := some ⟨w, a, b'⟩ } := by
  cases i with
  | f => exact absurd rfl hi
  | _ => rfl

/-- CHECK takes only the word of the record, for ERROPC. -/
theorem exec_check_congr_operands (s : State) (w a a' b b' : Word) :
    exec .check { s with pending := some ⟨w, a, b⟩ } = exec .check { s with pending := some ⟨w, a', b'⟩ } := rfl

/-- Settles O39: the second operand for every command but F, and both operands for CHECK. -/
theorem onlyFReadsSecondOperand : Obligations.OnlyFReadsSecondOperand := fun _ s w a a' b b' =>
  ⟨fun hi => exec_congr_secondOperand hi s w a b b', exec_check_congr_operands s w a a' b b'⟩

end Sys2Proof.Machine

/-! Proofs of the family `other`: STATUS and the accesses to the register window (R22 to R26, R34, R50 to R59). -/

namespace Sys2Proof.Machine

open Sys2Proof.Spec

/-! ### The STATUS word (R26) -/

/-- ERROPC, the highest field, ends at bit 21. -/
theorem getLsbD_statusWord_high (s : State) (j : Nat) : (statusWord s).getLsbD (j + 22) = false := by
  simp [statusWord, zext]

/-- A field of STATUS is known by its bits. -/
theorem statusWord_field {s : State} {start len : Nat} {field : BitVec len}
    (h : ∀ k, k < len → (statusWord s).getLsbD (start + k) = field.getLsbD k) :
    (statusWord s).extractLsb' start len = field := by
  apply BitVec.eq_of_getLsbD_eq
  intro k hk
  rw [BitVec.getLsbD_extractLsb', decide_eq_true hk, Bool.true_and, h k hk]

theorem statusWord_errcode (s : State) : (statusWord s).extractLsb' 8 4 = errCodeNumber s.errcode :=
  statusWord_field fun k hk => by interval_cases k <;> simp [statusWord, zext]

theorem statusWord_erropc (s : State) : (statusWord s).extractLsb' 16 6 = s.erropc :=
  statusWord_field fun k hk => by interval_cases k <;> simp [statusWord, zext]

theorem statusWord_reserved_7_6 (s : State) : (statusWord s).extractLsb' 6 2 = 0 :=
  statusWord_field fun k hk => by interval_cases k <;> simp [statusWord, zext]

theorem statusWord_reserved_15_12 (s : State) : (statusWord s).extractLsb' 12 4 = 0 :=
  statusWord_field fun k hk => by interval_cases k <;> simp [statusWord, zext]

theorem statusWord_reserved_63_22 (s : State) : (statusWord s).extractLsb' 22 42 = 0 :=
  statusWord_field fun k _ => by rw [Nat.add_comm, getLsbD_statusWord_high]; simp

theorem getLsbD_statusWord_busy (s : State) : (statusWord s).getLsbD 0 = s.busy := by
  simp [statusWord, zext]

theorem getLsbD_statusWord_done (s : State) : (statusWord s).getLsbD 1 = s.done := by
  simp [statusWord, zext]

/-- Settles O40: the flags are single bits, and ERRCODE is the number of R211. -/
theorem statusWordLayout : Obligations.StatusWordLayout := by
  intro s
  refine ⟨getLsbD_statusWord_busy s, getLsbD_statusWord_done s, getLsbD_statusWord_err s, ?_, ?_, ?_,
    statusWord_reserved_7_6 s, ?_, statusWord_reserved_15_12 s, statusWord_erropc s, statusWord_reserved_63_22 s⟩
  · simp [statusWord, zext]
  · simp [statusWord, zext]
  · simp [statusWord, zext]
  · rw [statusWord_errcode]
    cases s.errcode <;> rfl

/-! ### One step with an access to the window (R50, R52, R53) -/

/-- An accepted read is served in one step, wherever the window stands. -/
theorem step_of_read {s : State} {n : Nat} {rest : List Event} (hn : n < 32)
    (hinbox : s.inbox = .read (s.params.desBase + 8 * n) 8 :: rest) :
    step s = .next (readSlot (slotAt (8 * n)) { s with inbox := rest }) :=
  (step_of_event hinbox).trans (hostRead_at (s := { s with inbox := rest }) hn)

/-- An accepted write is served in one step, wherever the window stands. -/
theorem step_of_write {s : State} {n : Nat} {v : Word} {rest : List Event} (hn : n < 32)
    (hinbox : s.inbox = .write (s.params.desBase + 8 * n) 8 v :: rest) :
    step s = .next (writeSlot (slotAt (8 * n)) v { s with inbox := rest }) :=
  (step_of_event hinbox).trans (hostWrite_at hn v { s with inbox := rest })

/-- A read, accepted or not, is an access of the state with that event taken off. -/
theorem step_of_read_event {s : State} {addr size : Nat} {rest : List Event} (h : s.inbox = .read addr size :: rest) :
    step s = access { s with inbox := rest } addr size fun slot => readSlot slot { s with inbox := rest } :=
  step_of_event h

/-- A write, accepted or not, is an access of the state with that event taken off. -/
theorem step_of_write_event {s : State} {addr size : Nat} {v : Word} {rest : List Event}
    (h : s.inbox = .write addr size v :: rest) :
    step s = access { s with inbox := rest } addr size fun slot => writeSlot slot v { s with inbox := rest } :=
  step_of_event h

/-- An access that starts in the window and is not one aligned 64-bit access. -/
theorem access_of_refused {s : State} {off size : Nat} (hoff : off < 256) (hbad : size ≠ 8 ∨ off % 8 ≠ 0)
    (body : Slot → State) :
    access s (s.params.desBase + off) size body = .refused (.refusedAccess (s.params.desBase + off) size) := by
  have hin : inWindow s (s.params.desBase + off) = true := by simp [inWindow, hoff]
  have hacc : accepted s (s.params.desBase + off) size = false := by simpa [accepted, imp_iff_not_or] using hbad
  simp [access, hin, hacc]

/-- An access that starts outside the window. -/
theorem access_of_outside {s : State} {addr : Nat} (h : addr < s.params.desBase ∨ s.params.desBase + 256 ≤ addr)
    (size : Nat) (body : Slot → State) : access s addr size body = .fault (.outsideWindow addr) := by
  have hout : inWindow s addr = false := by
    simp only [inWindow, Bool.and_eq_false_iff, decide_eq_false_iff_not]
    omega
  simp [access, hout]

/-- Settles O50: reads and writes are the same access, judged before its body. -/
theorem narrowOrMisalignedIsRefused : Obligations.NarrowOrMisalignedIsRefused := by
  intro s off size v rest hoff hbad
  have hrefused := access_of_refused (s := { s with inbox := rest }) hoff hbad
  exact ⟨fun h => (step_of_read_event h).trans (hrefused _), fun h => (step_of_write_event h).trans (hrefused _)⟩

/-- Settles O51: reads and writes are the same access, judged before its body. -/
theorem accessOutsideWindowFaults : Obligations.AccessOutsideWindowFaults := by
  intro s addr size v rest hout
  have hfault := access_of_outside (s := { s with inbox := rest }) hout size
  exact ⟨fun h => (step_of_read_event h).trans (hfault _), fun h => (step_of_write_event h).trans (hfault _)⟩

/-! ### Reads (R39, R51, R54, R57, R59) -/

/-- Settles O49: whatever slot the read reaches. -/
theorem readsHaveNoSideEffect : Obligations.ReadsHaveNoSideEffect := by
  intro s t addr size rest hinbox hstep
  rw [step_of_read_event hinbox] at hstep
  obtain ⟨_, _, rfl⟩ := access_eq_next_iff.1 hstep
  exact readSlot_eq _ _

theorem readSlot_of_value {s : State} {slot : Slot} {v : Word} (hline : s.resetLine = false)
    (h : slotValue s slot = some v) : readSlot slot s = reply v s := by
  simp [readSlot, hline, h]

theorem readSlot_of_open {s : State} {slot : Slot} (hline : s.resetLine = false) (h : slotValue s slot = none) :
    readSlot slot s = replyDraw s := by
  simp [readSlot, hline, h]

/-- RK[1..16] stand at the slot numbers 16..31 of the window (R51). -/
theorem slotAt_rk : ∀ i : Fin 16, slotAt (8 * (16 + i.val)) = .rk i := by decide

/-- A register that R51 puts at an offset, read as the value it holds. -/
theorem slotValue_of_readsAs {s : State} {off : Nat} {v : Word} (h : ReadsAs s off v) :
    ∃ n < 32, off = 8 * n ∧ slotValue s (slotAt (8 * n)) = some v := by
  rcases h with ⟨rfl, rfl⟩ | ⟨rfl, rfl⟩ | ⟨rfl, hw, rfl⟩ | ⟨rfl, hw, rfl⟩ | ⟨rfl, hw, hbusy, rfl⟩ |
    ⟨i, rfl, hksv, hbusy, rfl⟩
  · exact ⟨0, by omega, rfl, rfl⟩
  · exact ⟨1, by omega, rfl, rfl⟩
  · exact ⟨2, by omega, rfl, by simp [slotAt, slotValue, hw]⟩
  · exact ⟨3, by omega, rfl, by simp [slotAt, slotValue, hw]⟩
  · exact ⟨4, by omega, rfl, by simp [slotAt, slotValue, hw, hbusy]⟩
  · exact ⟨16 + i.val, by omega, by omega, by simp [slotAt_rk, slotValue, hksv, hbusy, zext]⟩

/-- An offset that the spec leaves open has no value. -/
theorem slotValue_of_readsOpen {s : State} {off : Nat} (h : ReadsOpen s off) :
    ∃ n < 32, off = 8 * n ∧ slotValue s (slotAt (8 * n)) = none := by
  rcases h with ⟨n, h5, h15, rfl⟩ | ⟨rfl, hw⟩ | ⟨rfl, hw⟩ | ⟨rfl, hopen⟩ | ⟨i, rfl, hopen⟩
  · have hslot : slotAt (8 * n) = .unmapped := by interval_cases n <;> rfl
    exact ⟨n, by omega, rfl, by rw [hslot, slotValue]⟩
  · exact ⟨2, by omega, rfl, by simp [slotAt, slotValue, hw]⟩
  · exact ⟨3, by omega, rfl, by simp [slotAt, slotValue, hw]⟩
  · exact ⟨4, by omega, rfl, by rcases hopen with h | h <;> simp [slotAt, slotValue, h]⟩
  · exact ⟨16 + i.val, by omega, by omega, by rcases hopen with h | h <;> simp [slotAt_rk, slotValue, h]⟩

/-- Settles O47: the slot at that offset has the value. -/
theorem readsReturnRegisters : Obligations.ReadsReturnRegisters := by
  intro s off v rest hinbox hline hreads
  obtain ⟨n, hn, rfl, hvalue⟩ := slotValue_of_readsAs hreads
  rw [step_of_read hn hinbox]
  exact congrArg _ (readSlot_of_value (s := { s with inbox := rest }) hline hvalue)

/-- Settles O48: the slot at that offset has no value. -/
theorem openReadsReturnDraws : Obligations.OpenReadsReturnDraws := by
  intro s off rest hinbox hline hopen
  obtain ⟨n, hn, rfl, hvalue⟩ := slotValue_of_readsOpen hopen
  rw [step_of_read hn hinbox]
  exact congrArg _ (readSlot_of_open (s := { s with inbox := rest }) hline hvalue)

/-! ### Writes to A and B (R22, R23, R215) -/

theorem writeSlot_a {s : State} (hline : s.resetLine = false) (hbusy : s.busy = false) (v : Word) :
    writeSlot .a v s = { s with a := v, aWritten := true } := by
  simp [writeSlot, writeA, hline, hbusy]

theorem writeSlot_b {s : State} (hline : s.resetLine = false) (hbusy : s.busy = false) (v : Word) :
    writeSlot .b v s = { s with b := v, bWritten := true } := by
  simp [writeSlot, writeB, hline, hbusy]

/-- Settles O44: A and B are the slots number 2 and 3. -/
theorem operandWritesAreStored : Obligations.OperandWritesAreStored := by
  intro s v rest hline hbusy
  refine ⟨fun hinbox => ?_, fun hinbox => ?_⟩
  · rw [step_of_write (n := 2) (by omega) hinbox]
    exact congrArg _ (writeSlot_a (s := { s with inbox := rest }) hline hbusy v)
  · rw [step_of_write (n := 3) (by omega) hinbox]
    exact congrArg _ (writeSlot_b (s := { s with inbox := rest }) hline hbusy v)

/-! ### Writes to CMD (R34, R39, R215) -/

/-- In the error state CMD ignores a write, while reset is asserted too (R215). -/
theorem writeSlot_cmd_of_err {s : State} (hbusy : s.busy = false) (herr : s.err = true) (v : Word) :
    writeSlot .cmd v s = s := by
  simp [writeSlot, writeCmd, hbusy, herr]

/-- Settles O45: CMD is the slot number 0. -/
theorem errorStateIgnoresCommands : Obligations.ErrorStateIgnoresCommands := by
  intro s v rest hinbox hbusy herr
  rw [step_of_write (n := 0) (by omega) hinbox]
  exact congrArg _ (writeSlot_cmd_of_err (s := { s with inbox := rest }) hbusy herr v)

/-- A block that is ready issues the command of a legal word in one step (R34). -/
theorem step_of_issue {s : State} {v : Word} {i : Instr} {rest : List Event}
    (hinbox : s.inbox = .write s.params.desBase 8 v :: rest) (hready : s.ready = true) (hd : decode v = .ok i) :
    step s = .next (issue v i { s with inbox := rest, cmd := v, done := false }) := by
  obtain ⟨_, hbusy, herr, hline⟩ := ready_iff.1 hready
  calc step s
      = hostWrite s.params.desBase 8 v { s with inbox := rest } := step_of_event hinbox
    _ = .next (writeCmd v { s with inbox := rest }) := hostWrite_cmd (s := { s with inbox := rest }) hline v
    _ = .next (issue v i { s with inbox := rest, cmd := v, done := false }) := by
        simp [writeCmd, hbusy, herr, hd]

/-- The state that the issue leaves, written out (R34, R35). -/
theorem issue_eq (s : State) (v : Word) (i : Instr) (rest : List Event) :
    issue v i { s with inbox := rest, cmd := v, done := false } =
      { s with
        inbox := rest, cmd := v, done := false, busy := true, pending := some ⟨v, captureA s, captureB s⟩
        draws := s.draws + 2, uninitOperand := s.uninitOperand || readsUnwritten i s } := rfl

/-- Every command but CHECK takes A, and F alone takes B (R23, R39). -/
theorem readsUnwritten_iff (i : Instr) (s : State) :
    readsUnwritten i s = true ↔ (i ≠ .check ∧ s.aWritten = false) ∨ (i = .f ∧ s.bWritten = false) := by
  cases i <;> simp [readsUnwritten, Instr.readsA, Instr.readsB]

/-- Settles O41: with its operands written the command takes no unwritten one. -/
theorem legalWordIssues : Obligations.LegalWordIssues := by
  intro s v i rest hinbox hready hd ha hb
  have hwritten : readsUnwritten i s = false := by
    rw [← Bool.not_eq_true, readsUnwritten_iff]
    rintro (⟨hi, hno⟩ | ⟨hi, hno⟩)
    · simp [ha hi] at hno
    · simp [hb hi] at hno
  refine ⟨⟨v, captureA s, captureB s⟩, s.draws + 2, rfl, fun h => ?_, fun h => ?_, ?_⟩
  · simp [captureA, h]
  · simp [captureB, h]
  · rw [step_of_issue hinbox hready hd, issue_eq, hwritten, Bool.or_false]

/-- Settles O52: the issue records that the command takes an unwritten operand. -/
theorem unwrittenOperandIsRecorded : Obligations.UnwrittenOperandIsRecorded := by
  intro s v i rest hinbox hready hd hunwritten
  have hreads := (readsUnwritten_iff i s).2 hunwritten
  refine ⟨⟨v, captureA s, captureB s⟩, s.draws + 2, rfl, ?_⟩
  rw [step_of_issue hinbox hready hd, issue_eq, hreads, Bool.or_true]

end Sys2Proof.Machine

/-! Proofs of the family `other`: reset, and what every step keeps (R25 to R35, R211 to R215, R240, R241). -/

namespace Sys2Proof.Machine

open Sys2Proof.Spec

/-! ### The engine's turn (R34) and the assertion of reset (R240) -/

/-- Settles O1: the engine has the turn by its event, or because no event is left. -/
theorem engineTurnRunsPendingCommand : Obligations.EngineTurnRunsPendingCommand := fun _ _ _ hp hd =>
  ⟨fun _ hinbox => (step_of_event hinbox).trans (engineTurn_of_pending hp hd),
    fun hinbox => (step_of_no_event hinbox).trans (engineTurn_of_pending hp hd)⟩

/-- Settles O6: the values stand in the definition of the reset state, and STATUS is made of them. -/
theorem resetStateValues : Obligations.ResetStateValues :=
  ⟨rfl, statusWord_reset, rfl, rfl, rfl, rfl, rfl⟩

/-- STATUS depends only on fields that the assertion of reset puts at their reset values (R240). -/
theorem statusWord_assertReset (s : State) : statusWord (assertReset s) = 0 := statusWord_reset

/-- Settles O9: the next state is the block at its reset values, with the reset input asserted. -/
theorem resetFromEveryState : Obligations.ResetFromEveryState := fun s rest hinbox =>
  ⟨assertReset { s with inbox := rest }, step_of_event hinbox, rfl, statusWord_assertReset _, rfl, rfl, rfl, rfl, rfl,
    rfl, rfl, rfl⟩

/-! ### Three forms of state that meet the invariant -/

/-- The block is idle, and no error has occurred. -/
theorem inv_of_quiet {s : State} (hp : s.pending = none) (hbusy : s.busy = false) (herr : s.err = false)
    (hcode : s.errcode = .none) (hopc : s.erropc = 0) (hcheck : s.chkd = s.chkp) (hbase : s.params.desBase % 256 = 0)
    (hheld : s.resetLine = true → s.cmd = 0 ∧ statusWord s = 0 ∧
      s.aWritten = false ∧ s.bWritten = false ∧ s.rWritten = false) : s.Inv where
  busy_iff_pending := by simp [hp, hbusy]
  pending_word := by simp [hp]
  done_alone _ := ⟨hbusy, herr⟩
  err_not_busy _ := hbusy
  no_error_record _ := ⟨hcode, hopc⟩
  error_record h := by simp [herr] at h
  pass_is_checked h := hcheck.trans h
  failed_check := by simp [hcode, hcheck]
  no_schedule h := by simp [hcode] at h
  base_aligned := hbase
  held_in_reset h :=
    have ⟨hcmd, hstatus, hwritten⟩ := hheld h
    ⟨hcmd, hstatus, hp, hwritten⟩

/-- The error entry of a block whose record has been consumed (R214). -/
theorem inv_errorEntry {s : State} {code : ErrCode} (opc : Opc) (hp : s.pending = none) (hline : s.resetLine = false)
    (hcode : code ≠ .none) (hpass : s.chkp = true → s.chkd = true)
    (hcheck : code = .selfcheckFail ↔ s.chkd = true ∧ s.chkp = false) (hksv : code = .noSchedule → s.ksv = false)
    (hbase : s.params.desBase % 256 = 0) : (errorEntry code opc s).Inv where
  busy_iff_pending := by simp [hp]
  pending_word := by simp [hp]
  done_alone := by simp
  err_not_busy := by simp
  no_error_record := by simp
  error_record := by simpa using hcode
  pass_is_checked := hpass
  failed_check := hcheck
  no_schedule := hksv
  base_aligned := hbase
  held_in_reset := by simp [hline]

/-- A block without error that has issued the command of a legal word (R34). -/
theorem inv_issue {s : State} {v : Word} {i : Instr} (hinv : s.Inv) (herr : s.err = false) (hline : s.resetLine = false)
    (hlegal : legal v = true) : (issue v i { s with cmd := v, done := false }).Inv where
  busy_iff_pending := by simp
  pending_word := by simp [hlegal]
  done_alone := by simp
  err_not_busy := by simp [herr]
  no_error_record := hinv.no_error_record
  error_record := hinv.error_record
  pass_is_checked := hinv.pass_is_checked
  failed_check := hinv.failed_check
  no_schedule := hinv.no_schedule
  base_aligned := hinv.base_aligned
  held_in_reset := by simp [hline]

/-! ### What the invariant says without an error, and of a pending command -/

/-- Without an error the last CHECK, if there was one, passed (R31, R197). -/
theorem State.Inv.chkd_eq_chkp {s : State} (h : s.Inv) (herr : s.err = false) : s.chkd = s.chkp := by
  obtain ⟨hcode, _⟩ := h.no_error_record herr
  have hnot : ¬ (s.chkd = true ∧ s.chkp = false) := fun hfailed => by simpa [hcode] using h.failed_check.2 hfailed
  cases hp : s.chkp with
  | true => exact h.pass_is_checked hp
  | false => exact Bool.eq_false_iff.2 fun hd => hnot ⟨hd, hp⟩

/-- A command is pending only while BUSY = 1, without error and with reset released (R35, R215, R240). -/
theorem State.Inv.of_pending {s : State} {p : Pending} (h : s.Inv) (hp : s.pending = some p) :
    s.busy = true ∧ s.err = false ∧ s.resetLine = false := by
  have hbusy : s.busy = true := by rw [h.busy_iff_pending, hp]; rfl
  refine ⟨hbusy, ?_, ?_⟩
  · cases herr : s.err with
    | false => rfl
    | true => simp [h.err_not_busy herr] at hbusy
  · cases hline : s.resetLine with
    | false => rfl
    | true =>
      obtain ⟨_, _, hnone, _⟩ := h.held_in_reset hline
      simp [hnone] at hp

/-- Nothing is pending while BUSY = 0 (R35). -/
theorem State.Inv.pending_of_idle {s : State} (h : s.Inv) (hbusy : s.busy = false) : s.pending = none := by
  have hpending := h.busy_iff_pending
  rw [hbusy] at hpending
  simpa using hpending.symm

/-! ### Each operation keeps the invariant -/

/-- The invariant does not look at the events to come. -/
theorem State.Inv.withInbox {s : State} (h : s.Inv) (rest : List Event) : State.Inv { s with inbox := rest } :=
  { h with }

theorem readSlot_inv {s : State} (h : s.Inv) (slot : Slot) : (readSlot slot s).Inv := by
  obtain ⟨v, d, hread⟩ := readSlot_eq slot s
  rw [hread]
  exact { h with }

/-- Every way of completing a command keeps the invariant. -/
theorem Completes.inv {i : Instr} {p : Pending} {s t : State} (h : Completes i p s t) (hinv : s.Inv)
    (hp : s.pending = some p) : t.Inv := by
  obtain ⟨hbusy, herr, hline⟩ := hinv.of_pending hp
  obtain ⟨hcode, hopc⟩ := hinv.no_error_record herr
  have hcheck := hinv.chkd_eq_chkp herr
  have hbase := hinv.base_aligned
  cases h with
  | result v d _ _ ht => subst ht; exact inv_of_quiet rfl rfl herr hcode hopc hcheck hbase (by simp [hline])
  | error code _ hc hk ht =>
    subst ht
    have hown : code ≠ .none ∧ code ≠ .selfcheckFail := by constructor <;> rintro rfl <;> simp at hc
    exact inv_errorEntry _ rfl hline hown.1 hinv.pass_is_checked (by simp [hown.2, hcheck]) hk hbase
  | schedule _ ht =>
    obtain ⟨d, rfl⟩ := ht
    exact inv_of_quiet rfl rfl herr hcode hopc hcheck hbase (by simp [hline])
  | checkPass _ _ ht =>
    obtain ⟨d, rfl⟩ := ht
    exact inv_of_quiet rfl rfl herr hcode hopc rfl hbase (by simp [hline])
  | checkFail _ _ ht =>
    subst ht
    exact inv_errorEntry _ rfl hline (by simp) (by simp) (by simp) (by simp) hbase

theorem busyViolation_inv {s : State} (h : s.Inv) (hbusy : s.busy = true) : (busyViolation s).Inv := by
  obtain ⟨p, hp⟩ : ∃ p, s.pending = some p := Option.isSome_iff_exists.1 (h.busy_iff_pending.symm.trans hbusy)
  obtain ⟨_, herr, hline⟩ := h.of_pending hp
  rw [busyViolation_of_pending hp]
  exact inv_errorEntry _ rfl hline (by simp) h.pass_is_checked (by simp [h.chkd_eq_chkp herr]) (by simp) h.base_aligned

/-- All that a host write to a slot can do (R34, R54, R55, R57, R75, R213, R215). -/
inductive SlotWrite (slot : Slot) (v : Word) (s t : State) : Prop where
  | ignored (ht : t = s)
  | storedA (hline : s.resetLine = false) (hbusy : s.busy = false) (ht : t = { s with a := v, aWritten := true })
  | storedB (hline : s.resetLine = false) (hbusy : s.busy = false) (ht : t = { s with b := v, bWritten := true })
  | violation (hbusy : s.busy = true) (ht : t = busyViolation s)
  | illegal (hline : s.resetLine = false) (hbusy : s.busy = false) (herr : s.err = false)
      (ht : t = errorEntry .illegalCmd (opcOf v) { s with cmd := v, done := false })
  | issued (i : Instr) (hslot : slot = .cmd) (hline : s.resetLine = false) (herr : s.err = false)
      (hlegal : legal v = true) (ht : t = issue v i { s with cmd := v, done := false })

/-- A host write to a slot does one of these. -/
theorem writeSlot_cases (slot : Slot) (v : Word) (s : State) : SlotWrite slot v s (writeSlot slot v s) := by
  cases hline : s.resetLine with
  | true => exact .ignored (by simp [writeSlot, hline])
  | false =>
    cases slot with
    | cmd =>
      have hslot : writeSlot .cmd v s = writeCmd v s := by simp [writeSlot, hline]
      rw [hslot]
      rcases writeCmd_cases v s with ⟨hbusy, ht⟩ | ⟨_, _, ht⟩ | ⟨hbusy, herr, _, ht⟩ | ⟨i, _, herr, _, hlegal, ht⟩
      · exact .violation hbusy ht
      · exact .ignored ht
      · exact .illegal hline hbusy herr ht
      · exact .issued i rfl hline herr hlegal ht
    | a =>
      cases hbusy : s.busy with
      | true => exact .violation hbusy (by simp [writeSlot, writeA, hline, hbusy])
      | false => exact .storedA hline hbusy (writeSlot_a hline hbusy v)
    | b =>
      cases hbusy : s.busy with
      | true => exact .violation hbusy (by simp [writeSlot, writeB, hline, hbusy])
      | false => exact .storedB hline hbusy (writeSlot_b hline hbusy v)
    | status | r | unmapped | rk _ => exact .ignored (writeSlot_ignored (by simp) (by simp) (by simp) v s)

theorem writeSlot_inv {s : State} (h : s.Inv) (slot : Slot) (v : Word) : (writeSlot slot v s).Inv := by
  cases writeSlot_cases slot v s with
  | ignored ht => rwa [ht]
  | storedA hline hbusy ht => rw [ht]; exact { h with held_in_reset := by simp [hline] }
  | storedB hline hbusy ht => rw [ht]; exact { h with held_in_reset := by simp [hline] }
  | violation hbusy ht => rw [ht]; exact busyViolation_inv h hbusy
  | illegal hline hbusy herr ht =>
    rw [ht]
    exact inv_errorEntry _ (h.pending_of_idle hbusy) hline (by simp) h.pass_is_checked
      (by simp [h.chkd_eq_chkp herr]) (by simp) h.base_aligned
  | issued i hslot hline herr hlegal ht => rw [ht]; exact inv_issue h herr hline hlegal

theorem assertReset_inv {s : State} (h : s.Inv) : (assertReset s).Inv :=
  inv_of_quiet rfl rfl rfl rfl rfl rfl h.base_aligned fun _ => ⟨rfl, statusWord_assertReset s, rfl, rfl, rfl⟩

theorem releaseReset_inv {s : State} (h : s.Inv) : (releaseReset s).Inv :=
  inv_of_quiet rfl rfl rfl rfl rfl rfl h.base_aligned fun _ => ⟨rfl, statusWord_releaseReset s, rfl, rfl, rfl⟩

/-- The part of the frame of a command (R36) that runs rest on. -/
theorem exec_frame {i : Instr} {s t : State} {p : Pending} (h : exec i s = .next t) (hp : s.pending = some p) :
    t.pending = none ∧ t.busy = false ∧ (t.done = true ∨ t.err = true) ∧ t.cmd = s.cmd ∧ t.params = s.params ∧
      t.resetLine = s.resetLine ∧ t.inbox = s.inbox ∧ t.replies = s.replies := by
  obtain ⟨hnone, hbusy, hend, hcmd, _, _, _, _, hparams, hline, _, hinbox, hreplies, _⟩ := commandFrame i s p t hp h
  exact ⟨hnone, hbusy, hend.imp (·.2) (·.1), hcmd, hparams, hline, hinbox, hreplies⟩

/-- The engine's turn of a block that meets the invariant goes on, and leaves nothing pending. -/
theorem engineTurn_of_inv {s : State} (h : s.Inv) :
    ∃ t, engineTurn s = .next t ∧ t.pending = none ∧ t.Inv ∧ t.inbox = s.inbox ∧ t.params = s.params := by
  cases hp : s.pending with
  | none => exact ⟨s, engineTurn_of_idle hp, hp, h, rfl, rfl⟩
  | some p =>
    obtain ⟨_, hlegal⟩ := h.pending_word p hp
    obtain ⟨i, hd⟩ := legal_iff.1 hlegal
    obtain ⟨t, hexec, hc⟩ := exec_completes hp i
    obtain ⟨hnone, _, _, _, hparams, _, hinbox, _⟩ := exec_frame hexec hp
    exact ⟨t, (engineTurn_of_pending hp hd).trans hexec, hnone, hc.inv h hp, hinbox, hparams⟩

/-- One event keeps the invariant. -/
theorem handle_inv {ev : Event} {s t : State} (h : s.Inv) (hstep : handle ev s = .next t) : t.Inv := by
  cases ev with
  | write addr size v => exact of_access_eq_next (writeSlot_inv h · v) hstep
  | read addr size => exact of_access_eq_next (readSlot_inv h ·) hstep
  | engine =>
    obtain ⟨u, hu, _, hinv, _⟩ := engineTurn_of_inv h
    obtain rfl : u = t := by simpa [handle, hu] using hstep
    exact hinv
  | assertReset =>
    obtain rfl : assertReset s = t := by simpa [handle] using hstep
    exact assertReset_inv h
  | releaseReset =>
    obtain rfl : (if s.resetLine then releaseReset s else s) = t := by simpa [handle] using hstep
    split
    · exact releaseReset_inv h
    · exact h

/-- Settles O7: reset leaves the block idle and without error. -/
theorem resetMeetsInvariant : Obligations.ResetMeetsInvariant :=
  inv_of_quiet rfl rfl rfl rfl rfl rfl rfl fun _ => ⟨rfl, statusWord_reset, rfl, rfl, rfl⟩

/-- Settles O8: the invariant does not look at the event taken off, and each event keeps it. -/
theorem stepKeepsInvariant : Obligations.StepKeepsInvariant := by
  intro s t h hstep
  cases hinbox : s.inbox with
  | nil =>
    rw [step_of_no_event hinbox] at hstep
    obtain ⟨u, hu, _, hinv, _⟩ := engineTurn_of_inv h
    obtain rfl : u = t := by simpa [hu] using hstep
    exact hinv
  | cons ev rest =>
    rw [step_of_event hinbox] at hstep
    exact handle_inv (h.withInbox rest) hstep

end Sys2Proof.Machine

/-! Proofs of the family `other`: who issues a command (R34, R57), and runs (R60, R61, R80, R251). -/

namespace Sys2Proof.Machine

open Sys2Proof.Spec

/-! ### Only a write to CMD issues (R34, R51) -/

/-- CMD stands at slot number 0 of the window and nowhere else (R51). -/
theorem eq_zero_of_slotAt_eq_cmd {n : Nat} (h : slotAt (8 * n) = .cmd) : n = 0 := by
  by_cases hreadOnly : n = 1 ∨ 4 ≤ n
  · exact absurd h (slotAt_readOnly hreadOnly).1
  · obtain hn | rfl | rfl : n = 0 ∨ n = 2 ∨ n = 3 := by omega
    · exact hn
    · exact absurd h (by decide)
    · exact absurd h (by decide)

/-- An access that goes on is one 64-bit access at a slot number of the window (R50, R52). -/
theorem access_eq_next_at {s t : State} {addr size : Nat} {body : Slot → State}
    (h : access s addr size body = .next t) :
    ∃ n < 32, addr = s.params.desBase + 8 * n ∧ size = 8 ∧ t = body (slotAt (8 * n)) := by
  obtain ⟨hin, hacc, ht⟩ := access_eq_next_iff.1 h
  simp only [inWindow, Bool.and_eq_true, decide_eq_true_eq] at hin
  simp only [accepted, Bool.and_eq_true, beq_iff_eq] at hacc
  have hoff : addr - s.params.desBase = 8 * ((addr - s.params.desBase) / 8) := by omega
  exact ⟨(addr - s.params.desBase) / 8, by omega, by omega, hacc.1, hoff ▸ ht⟩

theorem busyViolation_pending (s : State) : (busyViolation s).pending = none := by
  unfold busyViolation
  split
  · rfl
  next h => exact h

/-- A host write that leaves a command pending on an idle block is the write of its word to CMD (R34). -/
theorem writeSlot_issues {slot : Slot} {v : Word} {s : State} {q : Pending} (hidle : s.pending = none)
    (h : (writeSlot slot v s).pending = some q) :
    slot = .cmd ∧ q.word = v ∧ legal v = true ∧ (writeSlot slot v s).cmd = v ∧ (writeSlot slot v s).busy = true := by
  cases writeSlot_cases slot v s with
  | issued i hslot _ _ hlegal ht =>
    rw [ht] at h ⊢
    obtain rfl : _ = q := Option.some.inj h
    exact ⟨hslot, rfl, hlegal, rfl, rfl⟩
  | violation _ ht => simp [ht, busyViolation_pending] at h
  | ignored ht | storedA _ _ ht | storedB _ _ ht | illegal _ _ _ ht => simp [ht, hidle] at h

/-- No other event makes a command pending. -/
theorem handle_issues {ev : Event} {s t : State} {q : Pending} (hidle : s.pending = none)
    (h : handle ev s = .next t) (hq : t.pending = some q) :
    ev = .write s.params.desBase 8 q.word ∧ legal q.word = true ∧ t.cmd = q.word ∧ t.busy = true := by
  cases ev with
  | write addr size v =>
    obtain ⟨n, _, rfl, rfl, rfl⟩ := access_eq_next_at (body := fun slot => writeSlot slot v s) h
    obtain ⟨hslot, rfl, hlegal, hcmd, hbusy⟩ := writeSlot_issues hidle hq
    obtain rfl := eq_zero_of_slotAt_eq_cmd hslot
    exact ⟨rfl, hlegal, hcmd, hbusy⟩
  | read addr size =>
    have hkeeps := of_access_eq_next (readSlot_keepsErrorRecord · s) h
    obtain ⟨_, _, _, _, hpending⟩ := hkeeps
    simp [hpending, hidle] at hq
  | engine =>
    obtain rfl : s = t := by simpa [handle, engineTurn_of_idle hidle] using h
    simp [hidle] at hq
  | assertReset =>
    obtain rfl : assertReset s = t := by simpa [handle] using h
    cases hq
  | releaseReset =>
    obtain rfl : (if s.resetLine then releaseReset s else s) = t := by simpa [handle] using h
    split at hq
    · cases hq
    · simp [hidle] at hq

/-- Settles O53: the engine's turn of an idle block does nothing, and of the events only that write issues. -/
theorem onlyCmdWriteIssues : Obligations.OnlyCmdWriteIssues := by
  intro s t q hidle hstep hq
  cases hinbox : s.inbox with
  | nil =>
    rw [step_of_no_event hinbox, engineTurn_of_idle hidle] at hstep
    obtain rfl : s = t := by simpa using hstep
    simp [hidle] at hq
  | cons ev rest =>
    rw [step_of_event hinbox] at hstep
    obtain ⟨rfl, hrest⟩ := handle_issues (s := { s with inbox := rest }) hidle hstep hq
    exact ⟨rest, rfl, hrest⟩

/-! ### Runs -/

/-- A run that begins with a step that goes on. -/
theorem run_succ {s t : State} (h : step s = .next t) (k : Nat) :
    Host.Core.run core (k + 1) s = Host.Core.run core k t := by
  simp [Host.Core.run, core, h]

theorem run_zero (s : State) : Host.Core.run core 0 s = .next s := rfl

/-! ### Progress (R251) -/

/-- The events to come and the parameters are as they were. -/
def KeepsEvents (s t : State) : Prop := t.inbox = s.inbox ∧ t.params = s.params

theorem readSlot_keepsEvents (slot : Slot) (s : State) : KeepsEvents s (readSlot slot s) := by
  obtain ⟨v, d, h⟩ := readSlot_eq slot s
  rw [h]
  exact ⟨rfl, rfl⟩

theorem busyViolation_keepsEvents (s : State) : KeepsEvents s (busyViolation s) := by
  unfold busyViolation
  split <;> exact ⟨rfl, rfl⟩

theorem writeSlot_keepsEvents (slot : Slot) (v : Word) (s : State) : KeepsEvents s (writeSlot slot v s) := by
  cases writeSlot_cases slot v s with
  | violation _ ht => rw [ht]; exact busyViolation_keepsEvents s
  | ignored ht | storedA _ _ ht | storedB _ _ ht | illegal _ _ _ ht | issued _ _ _ _ _ ht => rw [ht]; exact ⟨rfl, rfl⟩

/-- An event that the block accepts happens, and takes no other event with it. -/
theorem handle_of_accepted {ev : Event} {s : State} (h : s.Inv) (hacc : AcceptedEvent s.params.desBase ev) :
    ∃ t, handle ev s = .next t ∧ KeepsEvents s t := by
  cases ev with
  | write addr size v =>
    obtain ⟨rfl, n, hn, rfl⟩ := hacc
    exact ⟨_, hostWrite_at hn v s, writeSlot_keepsEvents _ v s⟩
  | read addr size =>
    obtain ⟨rfl, n, hn, rfl⟩ := hacc
    exact ⟨_, hostRead_at hn, readSlot_keepsEvents _ s⟩
  | engine =>
    obtain ⟨t, ht, _, _, hkeeps⟩ := engineTurn_of_inv h
    exact ⟨t, ht, hkeeps⟩
  | assertReset => exact ⟨_, rfl, rfl, rfl⟩
  | releaseReset =>
    refine ⟨_, rfl, ?_⟩
    split <;> exact ⟨rfl, rfl⟩

/-- The events of the list happen in turn, and then the engine has its turn. -/
theorem run_of_accepted {events : List Event} {s : State} (hinbox : s.inbox = events) (h : s.Inv)
    (hacc : ∀ ev ∈ events, AcceptedEvent s.params.desBase ev) :
    ∃ t, Host.Core.run core (events.length + 1) s = .next t ∧ t.inbox = [] ∧ t.pending = none ∧ t.Inv := by
  induction events generalizing s with
  | nil =>
    obtain ⟨t, ht, hnone, hinv, hempty, _⟩ := engineTurn_of_inv h
    refine ⟨t, ?_, hempty.trans hinbox, hnone, hinv⟩
    rw [List.length_nil, run_succ ((step_of_no_event hinbox).trans ht), run_zero]
  | cons ev rest ih =>
    obtain ⟨t, ht, hrest, hparams⟩ := handle_of_accepted (h.withInbox rest) (hacc ev (by simp))
    have hlater : ∀ ev ∈ rest, AcceptedEvent t.params.desBase ev := fun ev' hev' => by
      rw [hparams]
      exact hacc ev' (by simp [hev'])
    obtain ⟨u, hu, hend⟩ := ih hrest (handle_inv (h.withInbox rest) ht) hlater
    exact ⟨u, (run_succ ((step_of_event hinbox).trans ht) _).trans hu, hend⟩

/-- Settles O56: by induction on the events, since each step keeps the invariant. -/
theorem everyCommandCompletes : Obligations.EveryCommandCompletes := by
  intro s h hacc
  obtain ⟨t, hrun, hempty, hnone, hinv⟩ := run_of_accepted rfl h hacc
  exact ⟨t, hrun, hempty, hnone, by rw [hinv.busy_iff_pending, hnone]; rfl, hinv⟩

/-! ### The WAIT loop (R61, R80) -/

/-- The state after `polls` reads of STATUS, with the events `rest` still to come. -/
def afterPolls (polls : Nat) (rest : List Event) (s : State) : State :=
  { s with inbox := rest, replies := List.replicate polls (statusWord s) ++ s.replies }

/-- Reads of STATUS before anything else happens all see the same word. -/
theorem run_of_polls {polls k : Nat} {s : State} {rest : List Event} (hline : s.resetLine = false)
    (hinbox : s.inbox = List.replicate polls (rd s.params.desBase .status) ++ rest) :
    Host.Core.run core (polls + k) s = Host.Core.run core k (afterPolls polls rest s) := by
  induction polls generalizing s with
  | zero =>
    obtain rfl : s.inbox = rest := hinbox
    rw [Nat.zero_add]
    rfl
  | succ n ih =>
    have hread := step_of_rd_status (rest := List.replicate n (rd s.params.desBase .status) ++ rest) hline hinbox
    have hreplies : List.replicate (n + 1) (statusWord s) ++ s.replies =
        List.replicate n (statusWord s) ++ statusWord s :: s.replies := by
      rw [List.replicate_succ', List.append_assoc, List.singleton_append]
    rw [Nat.add_right_comm, run_succ hread, afterPolls, hreplies]
    exact ih (s := reply (statusWord s) { s with inbox := List.replicate n (rd s.params.desBase .status) ++ rest })
      hline rfl

/-- The engine's turn on a pending command, and then a read of the STATUS that the command leaves. -/
theorem run_of_turn_and_read {s : State} {p : Pending} {i : Instr} {rest : List Event} (hp : s.pending = some p)
    (hd : decode p.word = .ok i) (hline : s.resetLine = false)
    (hinbox : s.inbox = .engine :: rd s.params.desBase .status :: rest) :
    ∃ t, exec i { s with inbox := rd s.params.desBase .status :: rest } = .next t ∧
      Host.Core.run core 2 s = .next (reply (statusWord t) { t with inbox := rest }) := by
  obtain ⟨t, hexec, _⟩ := exec_completes (s := { s with inbox := rd s.params.desBase .status :: rest }) hp i
  have hturn : step s = .next t := ((engineTurnRunsPendingCommand s p i hp hd).1 _ hinbox).trans hexec
  obtain ⟨_, _, _, _, hparams, htline, htinbox, _⟩ := exec_frame hexec hp
  have hread : step t = .next (reply (statusWord t) { t with inbox := rest }) :=
    step_of_rd_status (htline.trans hline) (by rw [htinbox, hparams])
  exact ⟨t, hexec, run_two hturn hread⟩

/-- WAIT on a pending command (R80). -/
theorem run_of_wait {polls : Nat} {s : State} {p : Pending} {i : Instr} {rest : List Event} (hp : s.pending = some p)
    (hd : decode p.word = .ok i) (hline : s.resetLine = false)
    (hinbox : s.inbox = waitEvents s.params.desBase polls ++ rest) :
    ∃ t, exec i (afterPolls polls (rd s.params.desBase .status :: rest) s) = .next t ∧
      Host.Core.run core (polls + 2) s = .next (reply (statusWord t) { t with inbox := rest }) := by
  have hpolls : s.inbox = List.replicate polls (rd s.params.desBase .status) ++
      (.engine :: rd s.params.desBase .status :: rest) := by
    rw [hinbox, waitEvents, List.append_assoc]
    rfl
  rw [run_of_polls hline hpolls]
  exact run_of_turn_and_read (s := afterPolls polls (.engine :: rd s.params.desBase .status :: rest) s) hp hd hline rfl

/-- A block that is ready runs a command word and WAIT to the end (R80); the early reads of STATUS show BUSY and nothing else
of the three. -/
theorem run_of_runEvents {s : State} {i : Instr} {polls : Nat} {rest : List Event} (hwf : i.wellFormed = true)
    (hready : s.ready = true) (hinbox : s.inbox = runEvents s.params.desBase polls i ++ rest) :
    ∃ (t : State) (early : Word), Host.Core.run core (polls + 3) s = .next (reply (statusWord t) t) ∧
      t.inbox = rest ∧ t.pending = none ∧ t.cmd = encode i ∧ t.busy = false ∧ (t.done = true ∨ t.err = true) ∧
      t.replies = List.replicate polls early ++ s.replies ∧
      early.getLsbD 0 = true ∧ early.getLsbD 1 = false ∧ early.getLsbD 2 = false := by
  obtain ⟨_, _, herr, hline⟩ := ready_iff.1 hready
  have hissue := step_of_issue hinbox hready (decode_encode hwf)
  have hp := issue_pending (encode i) i
    { s with inbox := waitEvents s.params.desBase polls ++ rest, cmd := encode i, done := false }
  obtain ⟨t, hexec, hrun⟩ := run_of_wait (rest := rest) (polls := polls) hp (decode_encode hwf) hline rfl
  obtain ⟨hnone, hbusy, hend, hcmd, _, _, _, hreplies⟩ := exec_frame hexec hp
  refine ⟨{ t with inbox := rest }, _, (run_succ hissue _).trans hrun, rfl, hnone, hcmd, hbusy, hend, hreplies,
    ?_, ?_, ?_⟩
  · rw [getLsbD_statusWord_busy]; rfl
  · rw [getLsbD_statusWord_done]; rfl
  · rw [getLsbD_statusWord_err]; exact herr

/-- Settles O57: a write to A leaves the block ready, and RUN goes on from there. -/
theorem waitLoopEnds : Obligations.WaitLoopEnds := by
  intro s i a polls rest hwf hready hinbox
  obtain ⟨_, hbusy, _, hline⟩ := ready_iff.1 hready
  have hwrite := (operandWritesAreStored s a _ hline hbusy).1 hinbox
  obtain ⟨t, early, hrun, hrest, hnone, hcmd, htbusy, hend, hreplies, hearly⟩ := run_of_runEvents (s := { s with
    inbox := runEvents s.params.desBase polls i ++ rest, a := a, aWritten := true }) hwf hready rfl
  refine ⟨reply (statusWord t) t, List.replicate polls early, (run_succ hwrite _).trans hrun, hrest, hnone, hcmd,
    congrArg _ hreplies, List.length_replicate, fun v hv => ?_, ?_, ?_⟩
  · rwa [List.eq_of_mem_replicate hv]
  · rwa [getLsbD_statusWord_busy]
  · rwa [getLsbD_statusWord_done, getLsbD_statusWord_err]

end Sys2Proof.Machine
